-- ==== Sys2Proof/Word.lean ====
section
/-! DEFINITION. The word types: a Wire Word and a lane access are 32 bits, a component pattern 16 bits.
An address, `Addr` (R13), is a natural number throughout: the spec computes with addresses in unbounded integers, and
`ConfigOK` keeps every lane address below `2^ADDR_W` (R11, R129). -/

namespace Sys2Proof

/-- `u32` (R13): a Wire Word, the value every register access carries. -/
abbrev Word := BitVec 32

/-- `u16` (R13): the bit pattern of one component. -/
abbrev Half := BitVec 16

end Sys2Proof
end

