-- ==== Sys2Proof/Config.lean ====
section
/-! DEFINITION. The configuration record (R9), the two example configurations (R10), and the free values
that stand for the FFT core behind the read lanes (R31, R32). -/

namespace Sys2Proof

/-- The kind of an access (R28): a write or a read. -/
inductive AccessKind where
  | wr
  | rd
  deriving DecidableEq, Repr

/-- One entry of the access history (R28). `data` is the word written, or the word the oracle returned. -/
structure Access where
  seq  : Nat
  kind : AccessKind
  addr : Nat
  data : Word
  deriving DecidableEq, Repr

/-- `HANDSHAKE` (R9, R203): the spec fixes it to `none`; a completion handshake is outside this hardware. -/
inductive Handshake where
  | none
  deriving DecidableEq, Repr

/-- Which oracle answers a read-lane read: the unconstrained one (R31), or the one a platform narrows by
`CORE_MODEL` (R32). -/
inductive CoreOracle where
  | unconstrained
  | coreModel
  deriving DecidableEq, Repr

/-- The configuration record `Cfg` (R9, R36), constants fixed when the hardware is built. -/
structure Cfg where
  /-- `N`, the transform size. -/
  n             : Nat
  /-- `W`, the component width. -/
  w             : Nat
  /-- `WORD_W`, the width of a Wire Word. -/
  wordW         : Nat
  /-- `BP`, the configured radix position. -/
  bp            : Int
  /-- `SCALE_SIGN`, the sign of the exponent in the scale conversion. -/
  scaleSign     : Int
  /-- `WRITE_LANE_ADDR`. -/
  writeLaneAddr : Nat
  /-- `READ_BASE`. -/
  readBase      : Nat
  /-- `STRIDE`. -/
  stride        : Nat
  /-- `ADDR_W`, the width of an address in bits. -/
  addrW         : Nat
  /-- `HANDSHAKE`. -/
  handshake     : Handshake
  /-- Whether the platform narrows the oracle by `CORE_MODEL`. -/
  oracle        : CoreOracle
  deriving DecidableEq, Repr

/-- `CFG_EX` (R10). `0x2000` and `N = 8` are the spec's general-knowledge values (G1, G2). -/
def cfgEx : Cfg where
  n := 8
  w := 16
  wordW := 32
  bp := 8
  scaleSign := 1
  writeLaneAddr := 0x2000
  readBase := 0x2008
  stride := 8
  addrW := 32
  handshake := .none
  oracle := .unconstrained

/-- `CFG_N4` (R10): `CFG_EX` with `N = 4`. -/
def cfgN4 : Cfg := { cfgEx with n := 4 }

/-- FREE VALUE (assumption 4): `CoreRead(log, i, choice)` of R31. It has no body: no proof can learn a value of it. -/
opaque Config.coreAnswer : List Access → Nat → Nat → Word

/-- FREE VALUE (assumption 4): `CORE_MODEL` of R32. It takes the last complete input sequence and a lane index
to that component of the vector of results; the spec gives it no body and neither does the model. -/
opaque Config.coreModel : List Word → Nat → Word

end Sys2Proof
end

