-- ==== Sys2Proof/Machine/AddressMap.lean ====
section
/-! DEFINITION. Well-formed configurations (R11), the address map and the address decode (R56, R57). -/

namespace Sys2Proof.Machine

/-- The address of read lane `i` (R22, R56), in unbounded arithmetic. -/
def readLaneAddr (c : Cfg) (i : Nat) : Nat := c.readBase + i * c.stride

/-- `ConfigOK(Cfg)` (R11), its seven clauses in order. -/
abbrev ConfigOK (c : Cfg) : Prop :=
  1 ≤ c.n ∧
  (c.w = 16 ∧ c.wordW = 32) ∧
  (0 ≤ c.bp ∧ c.bp ≤ c.w) ∧
  (c.scaleSign = 1 ∨ c.scaleSign = -1) ∧
  (4 ≤ c.stride ∧ c.stride % 4 = 0 ∧ c.readBase % 4 = 0 ∧ c.writeLaneAddr % 4 = 0) ∧
  (c.readBase + (c.n - 1) * c.stride + 4 ≤ 2 ^ c.addrW ∧ c.writeLaneAddr + 4 ≤ 2 ^ c.addrW) ∧
  (∀ i < c.n, c.writeLaneAddr ≠ readLaneAddr c i)

/-- What an access reaches (R57). -/
inductive Lane where
  /-- The write lane `WL` (R21). -/
  | wl
  /-- The read lane `RL[i]` (R22). -/
  | rl (i : Nat)
  /-- No lane (R58). -/
  | unmapped
  deriving DecidableEq, Repr

/-- `Decode(kind, addr)` (R57). -/
def decodeLane (c : Cfg) (kind : AccessKind) (addr : Nat) : Lane :=
  match kind with
  | .wr => if addr = c.writeLaneAddr then .wl else .unmapped
  | .rd =>
    if c.readBase ≤ addr ∧ (addr - c.readBase) % c.stride = 0 ∧ (addr - c.readBase) / c.stride < c.n then
      .rl ((addr - c.readBase) / c.stride)
    else .unmapped

end Sys2Proof.Machine
end

