-- ==== Sys2Proof/Syntax.lean ====
section
/-! DEFINITION. The operations, one constructor per row of spec/opcode_table.json, and the two binary forms
in which the outside hands an operation to the hardware. -/

namespace Sys2Proof

/-- The rows of the opcode table: the eight operations of CMD68 (R87), the eight reserved selectors (R92), and
the two access shapes of BUS65 (R90). An index, a radix position and a component of `encode` are unbounded
integers so that an illegal one can be written down and rejected (R13, R88); an address is a natural number. -/
inductive Instr where
  /-- `write_word(address, value)` (R110). -/
  | writeWord (addr : Nat) (value : Word)
  /-- `read_word(address)` (R112). -/
  | readWord (addr : Nat)
  /-- `encode(re, im)` (R120). -/
  | encode (re im : Int)
  /-- `decode_raw(word)` (R122). -/
  | decodeRaw (word : Word)
  /-- `decode_scaled(word, bp)` (R124). -/
  | decodeScaled (word : Word) (bp : Int)
  /-- `lane_addr(i)` (R140). -/
  | laneAddr (i : Int)
  /-- `write_sample(word)` (R142). -/
  | writeSample (word : Word)
  /-- `read_lane(i)` (R144). -/
  | readLane (i : Int)
  /-- Reserved selector `0x8` (R92). -/
  | reserved8
  /-- Reserved selector `0x9` (R92). -/
  | reserved9
  /-- Reserved selector `0xA` (R92). -/
  | reservedA
  /-- Reserved selector `0xB` (R92). -/
  | reservedB
  /-- Reserved selector `0xC` (R92). -/
  | reservedC
  /-- Reserved selector `0xD` (R92). -/
  | reservedD
  /-- Reserved selector `0xE` (R92). -/
  | reservedE
  /-- Reserved selector `0xF` (R92). -/
  | reservedF
  /-- A BUS65 record with `we = 1` (R90). -/
  | busWriteLane (addr : Nat) (wdata : Word)
  /-- A BUS65 record with `we = 0` (R90). -/
  | busReadLane (addr : Nat)
  deriving DecidableEq, Repr

/-- The two binary forms (R85): a CMD68 command descriptor (R86) and a BUS65 access record (R90). -/
inductive Encoded where
  | cmd68 (d : BitVec 68)
  | bus65 (b : BitVec 65)
  deriving DecidableEq, Repr

end Sys2Proof
end

