-- ==== Sys2Proof/Machine/State.lean ====
section
/-! DEFINITION. The state of the machine as plain data, the six faults, the refusals, and the reset state. -/

namespace Sys2Proof.Machine

/-- The six faults (R160), each with the information it records. EVERY one of them is an outcome handed to the
caller and leaves a NEXT state (R173, R175): `exec` and `step` never answer `Host.Outcome.fault`, because the spec
describes nothing that stops the hardware. Each is safe where it stands for behaviour the source leaves undefined:
the access is not issued and no value is returned. -/
inductive Fault where
  /-- Code 1 (R161). Raised by `lane_addr` and `read_lane` for an index outside `[0, N)`. Safe: no address is formed. -/
  | invalidIndex (i : Int)
  /-- Code 2 (R162). Raised by `decode_scaled` for a `bp` outside `[0, W]`. Safe: nothing is decoded. -/
  | invalidConfig (bp : Int)
  /-- Code 3 (R163). Raised by every access whose address does not decode to a lane for its kind. Safe: not issued. -/
  | unmappedAccess (kind : AccessKind) (addr : Nat)
  /-- Code 4 (R164). Raised by a read-lane read while the input sequence is incomplete. Safe: not issued. -/
  | protocolViolation (pos : Nat)
  /-- Code 5 (R165). Raised by a descriptor with a reserved selector. Safe: no operation is chosen. -/
  | illegalCommand (op : BitVec 4)
  /-- Code 6 (R166). Raised by `encode` for a component outside `[-32768, 32767]`; `which` is 0 for the real and 1
  for the imaginary component. Safe: no word is returned. -/
  | valueOutOfRange (which : Nat) (value : Int)
  deriving DecidableEq, Repr

/-- Why the model gives no step. All safe: nothing is claimed of what is refused. -/
inductive Refusal where
  /-- An instruction that has no meaning yet; raised only by arms of `exec` (there is none left). Safe. -/
  | notModelled (mnemonic : String)
  /-- The configuration is not well formed, so the hardware is not instantiated (R11, R162); raised by `step` and
  `instantiate`. Safe. -/
  | illFormedConfig
  /-- A CMD68 descriptor or BUS65 record on hardware with `ADDR_W > 32`: the forms require `ADDR_W <= 32` (R86, D2);
  raised by `step`. Safe: the operation itself can still be issued. -/
  | formatNeedsNarrowAddr
  /-- A `transact` listed with a number of words other than `N` (R147: ill-formed, a model refuses it); raised by the
  pseudo-operation only. Safe. -/
  | transactOperandCount (count : Nat)
  deriving DecidableEq, Repr

/-- What a completed operation returns (R87, R147). -/
inductive Value where
  /-- No result: `write_word`, `write_sample`, a bus write. -/
  | unit
  /-- A `u32`: `read_word`, `read_lane`, a bus read, `encode`. -/
  | word (w : Word)
  /-- A pair of `s16`: `decode_raw`. -/
  | sample (re im : Int)
  /-- A pair of exact rationals: `decode_scaled`. -/
  | scaled (re im : Rat)
  /-- An address: `lane_addr`. -/
  | addr (a : Nat)
  /-- The words read: the pseudo-operation `transact`. -/
  | words (ws : List Word)
  deriving DecidableEq, Repr

/-- The outcome of an operation as its caller sees it (R16). -/
inductive Response where
  | ok (v : Value)
  | fault (f : Fault)
  deriving DecidableEq, Repr

/-- What the outside hands to the hardware (R33, R85, R190): a binary form of an operation, an operation named
directly, or the reset event. -/
inductive Request where
  | form (e : Encoded)
  | op (i : Instr)
  | reset
  deriving DecidableEq, Repr

/-- The machine. `inseq`, `log` and `fault` are the spec's whole state (R20); the other fields are the model's own. -/
structure State where
  /-- The configuration `Cfg` (R9): a constant parameter in the spec (R33), carried here read-only (assumption 1). -/
  cfg      : Cfg
  /-- The input sequence collected so far (R25), oldest word first. -/
  inseq    : List Word
  /-- The history of every access issued (R28), oldest first. -/
  log      : List Access
  /-- The sticky fault record (R29). -/
  fault    : Option Fault
  /-- The outcome of the last operation (R16, R70), `none` before the first (assumption 3). -/
  response : Option Response
  /-- The caller's and the environment's requests not served yet, next one first (R33, R190; assumption 2). -/
  inbox    : List Request
  /-- How many fresh choices the oracle has been given (R31; assumption 4). -/
  draws    : Nat
  deriving DecidableEq, Repr

/-- The state right after reset (R39): no word collected, no access issued, no fault recorded. The configuration is
`CFG_EX` (assumption 1); nothing is asked of the machine, nothing answered, no choice drawn (assumptions 2, 3, 4). -/
def State.reset : State where
  cfg := cfgEx
  inseq := []
  log := []
  fault := none
  response := none
  inbox := []
  draws := 0

end Sys2Proof.Machine
end

