-- ==== Sys2Proof/Machine/Flags.lean ====
section
/-! DEFINITION. The flag-like state. There are no flags or condition codes; the sticky fault record is the only
flag-like state (R34), and the sequencer position is read off the input sequence (R26, R27). -/

namespace Sys2Proof.Machine

/-- The fault codes (R160). Code 0 is "no fault" and is no fault's code. -/
def faultCode : Fault → Nat
  | .invalidIndex _      => 1
  | .invalidConfig _     => 2
  | .unmappedAccess _ _  => 3
  | .protocolViolation _ => 4
  | .illegalCommand _    => 5
  | .valueOutOfRange _ _ => 6

/-- The sticky rule (R29, R173): the first fault is kept, a later one changes nothing. -/
def stick (record : Option Fault) (f : Fault) : Option Fault :=
  match record with
  | none   => some f
  | some g => some g

/-- The sequencer position `pos = len(inseq)` (R27). -/
abbrev pos (s : State) : Nat := s.inseq.length

/-- The input sequence is complete: the transaction is in its read phase (R26). -/
abbrev Complete (s : State) : Prop := pos s = s.cfg.n

end Sys2Proof.Machine
end

