-- ==== Sys2Proof/Machine/Operands.lean ====
section
/-! DEFINITION. The operand forms: component patterns (R13, R14), the Wire Word (R80, R82, R83) and the scale
conversion (R84, R124). -/

namespace Sys2Proof.Machine

/-- An integer is an `s16` (R13). -/
abbrev IsS16 (c : Int) : Prop := -32768 ≤ c ∧ c ≤ 32767

/-- `to_u16` (R13): the two's-complement pattern of a component. R13 gives it on `s16` only; `encode` refuses every other
integer before it comes here (R121), and what the function answers there is a DESIGN CHOICE (assumption 18). -/
def toU16 (c : Int) : Half := BitVec.ofNat 16 (if 0 ≤ c then c else c + 65536).toNat

/-- `to_s16` (R13): the component a pattern denotes. -/
def toS16 (p : Half) : Int := if p.toNat < 32768 then (p.toNat : Int) else (p.toNat : Int) - 65536

/-- `sext_32` (R14) of a component pattern: its top bit copied into the new high bits. -/
def sext32 (p : Half) : Word := p.signExtend 32

/-- `zext_32` (R14) of a component pattern: zeros in the new high bits. -/
def zext32 (p : Half) : Word := p.setWidth 32

/-- `w[31:16]`, the real field of a Wire Word (R80). -/
def reField (w : Word) : Half := w.extractLsb' 16 16

/-- `w[15:0]`, the imaginary field of a Wire Word (R80). -/
def imField (w : Word) : Half := w.extractLsb' 0 16

/-- Assembly of a word from a sample (R82): `to_u16(re) ++ to_u16(im)`. -/
def packWord (re im : Int) : Word := toU16 re ++ toU16 im

/-- The real component of a word (R83): its field read with its own sign bit. -/
def realOf (w : Word) : Int := toS16 (reField w)

/-- The imaginary component of a word (R83). -/
def imagOf (w : Word) : Int := toS16 (imField w)

/-- The scale conversion (R84, R124): `c * 2^(SCALE_SIGN * bp)`, exact in the rationals (R126). -/
def scaleComponent (sign bp c : Int) : Rat := (c : Rat) * (2 : Rat) ^ (sign * bp)

end Sys2Proof.Machine
end

