-- ==== Sys2Proof/Machine/Ops.lean ====
section
/-! DEFINITION. The operations every meaning is made of: returning a result, raising a fault (R173), the two access
primitives (R111, R113) with the oracle behind the read lanes (R31, R32), the index check (R140, R141), and the reset
event (R191). -/

namespace Sys2Proof.Machine

/-- What every operation answers. -/
abbrev StepOutcome := Host.Outcome State Fault Refusal

/-- What an operation computes before it is delivered: a fault, or its result and the state it leaves. -/
abbrev Attempt := Except Fault (Value × State)

/-- `return v` (R15): the caller gets `Ok(v)` (R16). -/
def respond (v : Value) (s : State) : State := { s with response := some (.ok v) }

/-- `raise E(info)` (R173), the ONE way a fault is taken: nothing the operation would have done happens, the sticky
record is set if it is empty, and the caller gets `Fault(code, info)`. There is no handler, saved position or mode
to change, and no return from a fault (R175). -/
def raise (f : Fault) (s : State) : State :=
  { s with fault := stick s.fault f, response := some (.fault f) }

/-- An operation attempted in state `s` returns its result, or is faulted with `s` otherwise untouched (R16, R173). -/
def deliver (s : State) (a : Attempt) : StepOutcome :=
  match a with
  | .ok (v, s') => .next (respond v s')
  | .error f    => .next (raise f s)

/-- One more entry at the end of the history; its `seq` is its position (R28). -/
def appendAccess (kind : AccessKind) (addr : Nat) (data : Word) (s : State) : State :=
  { s with log := s.log ++ [{ seq := s.log.length, kind := kind, addr := addr, data := data }] }

/-- The input sequence after one more word (R25): appended, or alone when the sequence was complete, which begins a
new transaction. -/
def nextSequence (n : Nat) (seq : List Word) (v : Word) : List Word :=
  if seq.length = n then [v] else seq ++ [v]

/-- The effect of a write of `WL` on the input sequence (R25). -/
def pushSample (v : Word) (s : State) : State := { s with inseq := nextSequence s.cfg.n s.inseq v }

/-- The data of the write entries of a history, oldest first. -/
def writtenWords (log : List Access) : List Word :=
  (log.filter fun a => a.kind = .wr).map Access.data

/-- The last `k` elements of a list. -/
def lastWords (k : Nat) (ws : List Word) : List Word := ws.drop (ws.length - k)

/-- `last_complete(log)` (R32): the data of the last `N` write entries. -/
def lastComplete (n : Nat) (log : List Access) : List Word := lastWords n (writtenWords log)

/-- The oracle's answer (R31), or `CORE_MODEL`'s where the platform narrows it (R32). FREE VALUE (assumption 4). -/
def coreRead (c : Cfg) (log : List Access) (i choice : Nat) : Word :=
  match c.oracle with
  | .unconstrained => Config.coreAnswer log i choice
  | .coreModel     => Config.coreModel (lastComplete c.n log) i

/-- A choice is drawn afresh (R31, R113): the next read is given another one. -/
def drawChoice (s : State) : State := { s with draws := s.draws + 1 }

/-- `MemWrite(addr, 4, v)` (R111). -/
def memWrite (addr : Nat) (v : Word) (s : State) : Attempt :=
  match decodeLane s.cfg .wr addr with
  | .wl => .ok (.unit, pushSample v (appendAccess .wr addr v s))
  | _   => .error (.unmappedAccess .wr addr)

/-- `MemRead(addr, 4)` (R113): decode first, then the phase (R172), then the oracle, which sees the history as it
stood before this read. -/
def memRead (addr : Nat) (s : State) : Attempt :=
  match decodeLane s.cfg .rd addr with
  | .rl i =>
    if Complete s then
      let v := coreRead s.cfg s.log i s.draws
      .ok (.word v, drawChoice (appendAccess .rd addr v s))
    else .error (.protocolViolation (pos s))
  | _ => .error (.unmappedAccess .rd addr)

/-- The index check and the address of a read lane (R140, R141): no address is formed for an index outside `[0, N)`. -/
def laneAddress (c : Cfg) (i : Int) : Except Fault Nat :=
  if i < 0 ∨ (c.n : Int) ≤ i then .error (.invalidIndex i) else .ok (readLaneAddr c i.toNat)

/-- The check on a radix position (R125). -/
def radixFault (c : Cfg) (bp : Int) : Option Fault :=
  if bp < 0 ∨ (c.w : Int) < bp then some (.invalidConfig bp) else none

/-- The effect of a reset (R191, R39): the spec's three state fields at their reset values, no outcome pending. The
configuration is not changed; requests still waiting outside and the count of choices are not the hardware's. -/
def resetEvent (s : State) : State :=
  { s with inseq := [], log := [], fault := none, response := none }

/-- Instantiation of a configuration (R11, R162): the reset state of that hardware, or a refusal. -/
def instantiate (c : Cfg) : StepOutcome :=
  if ConfigOK c then .next { State.reset with cfg := c } else .refused .illFormedConfig

end Sys2Proof.Machine
end

