-- ==== Sys2Proof/Machine/BusRecord.lean ====
section
/-! DEFINITION. The two shapes of a BUS65 access record (R90): the access itself, as it reaches the lanes, and the
record an entry of the history is made of. -/

namespace Sys2Proof.Machine

/-- A record with `we = 1`: the write of R111. -/
def execBusWriteLane (addr : Nat) (wdata : Word) (s : State) : StepOutcome :=
  deliver s (memWrite addr wdata s)

/-- A record with `we = 0`: the read of R113; the response is `rdata`. -/
def execBusReadLane (addr : Nat) (s : State) : StepOutcome :=
  deliver s (memRead addr s)

/-- The record inside an entry of the history (R90): an entry is a record with its sequence number and, for a read,
the word returned. -/
def accessRecord (a : Access) : Instr :=
  match a.kind with
  | .wr => .busWriteLane a.addr a.data
  | .rd => .busReadLane a.addr

end Sys2Proof.Machine
end

