-- ==== Sys2Proof/Machine/LaneSequencer.lean ====
section
/-! DEFINITION. The lane sequencer: `lane_addr`, `write_sample`, `read_lane` (spec/42_lane_sequencer.md). -/

namespace Sys2Proof.Machine

/-- `lane_addr(i)` (R140, R141). -/
def execLaneAddr (i : Int) (s : State) : StepOutcome :=
  deliver s ((laneAddress s.cfg i).map fun a => (.addr a, s))

/-- `write_sample(word)` (R142). -/
def execWriteSample (word : Word) (s : State) : StepOutcome :=
  deliver s (memWrite s.cfg.writeLaneAddr word s)

/-- `read_lane(i)` (R144): the index check first, then the read. -/
def execReadLane (i : Int) (s : State) : StepOutcome :=
  deliver s (match laneAddress s.cfg i with
    | .error f => .error f
    | .ok a    => memRead a s)

end Sys2Proof.Machine
end

