-- ==== Sys2Proof/Machine/RegisterAccess.lean ====
section
/-! DEFINITION. The Register Access Layer: `write_word` and `read_word` (spec/40_register_access.md). -/

namespace Sys2Proof.Machine

/-- `write_word(address, value)` (R110). -/
def execWriteWord (addr : Nat) (value : Word) (s : State) : StepOutcome :=
  deliver s (memWrite addr value s)

/-- `read_word(address)` (R112). -/
def execReadWord (addr : Nat) (s : State) : StepOutcome :=
  deliver s (memRead addr s)

end Sys2Proof.Machine
end

