-- ==== Sys2Proof/Machine/ReservedSelectors.lean ====
section
/-! DEFINITION. The reserved selectors of CMD68: each takes the fault `IllegalCommand` of its selector (R92, R165). -/

namespace Sys2Proof.Machine

/-- Reserved selector `0x8` (R92). -/
def execReserved8 (s : State) : StepOutcome := deliver s (.error (.illegalCommand 0x8#4))

/-- Reserved selector `0x9` (R92). -/
def execReserved9 (s : State) : StepOutcome := deliver s (.error (.illegalCommand 0x9#4))

/-- Reserved selector `0xA` (R92). -/
def execReservedA (s : State) : StepOutcome := deliver s (.error (.illegalCommand 0xA#4))

/-- Reserved selector `0xB` (R92). -/
def execReservedB (s : State) : StepOutcome := deliver s (.error (.illegalCommand 0xB#4))

/-- Reserved selector `0xC` (R92). -/
def execReservedC (s : State) : StepOutcome := deliver s (.error (.illegalCommand 0xC#4))

/-- Reserved selector `0xD` (R92). -/
def execReservedD (s : State) : StepOutcome := deliver s (.error (.illegalCommand 0xD#4))

/-- Reserved selector `0xE` (R92). -/
def execReservedE (s : State) : StepOutcome := deliver s (.error (.illegalCommand 0xE#4))

/-- Reserved selector `0xF` (R92). -/
def execReservedF (s : State) : StepOutcome := deliver s (.error (.illegalCommand 0xF#4))

end Sys2Proof.Machine
end

