-- ==== Sys2Proof/Machine/SampleCodec.lean ====
section
/-! DEFINITION. The Sample Codec: `encode`, `decode_raw`, `decode_scaled` (spec/41_sample_codec.md). -/

namespace Sys2Proof.Machine

/-- The word of a sample, the real component tested first (R120, R121). -/
def encodeSample (re im : Int) : Except Fault Word :=
  if ¬ IsS16 re then .error (.valueOutOfRange 0 re)
  else if ¬ IsS16 im then .error (.valueOutOfRange 1 im)
  else .ok (packWord re im)

/-- `encode(re, im)` (R120, R121). -/
def execEncode (re im : Int) (s : State) : StepOutcome :=
  deliver s ((encodeSample re im).map fun w => (.word w, s))

/-- `decode_raw(word)` (R122). -/
def execDecodeRaw (word : Word) (s : State) : StepOutcome :=
  deliver s (.ok (.sample (realOf word) (imagOf word), s))

/-- `decode_scaled(word, bp)` (R124, R125): the check on `bp` comes before any decoding. -/
def execDecodeScaled (word : Word) (bp : Int) (s : State) : StepOutcome :=
  deliver s (match radixFault s.cfg bp with
    | some f => .error f
    | none   => .ok (.scaled (scaleComponent s.cfg.scaleSign bp (realOf word))
                  (scaleComponent s.cfg.scaleSign bp (imagOf word)), s))

end Sys2Proof.Machine
end

