-- ==== Sys2Proof/Machine/Dispatch.lean ====
section
/-! DEFINITION. One arm per row of spec/opcode_table.json. -/

namespace Sys2Proof.Machine

def exec (i : Instr) (s : State) : Host.Outcome State Fault Refusal :=
  match i with
  | .writeWord addr value => Sys2Proof.Machine.execWriteWord addr value s
  | .readWord addr => Sys2Proof.Machine.execReadWord addr s
  | .encode re im => Sys2Proof.Machine.execEncode re im s
  | .decodeRaw word => Sys2Proof.Machine.execDecodeRaw word s
  | .decodeScaled word bp => Sys2Proof.Machine.execDecodeScaled word bp s
  | .laneAddr idx => Sys2Proof.Machine.execLaneAddr idx s
  | .writeSample word => Sys2Proof.Machine.execWriteSample word s
  | .readLane idx => Sys2Proof.Machine.execReadLane idx s
  | .reserved8 => Sys2Proof.Machine.execReserved8 s
  | .reserved9 => Sys2Proof.Machine.execReserved9 s
  | .reservedA => Sys2Proof.Machine.execReservedA s
  | .reservedB => Sys2Proof.Machine.execReservedB s
  | .reservedC => Sys2Proof.Machine.execReservedC s
  | .reservedD => Sys2Proof.Machine.execReservedD s
  | .reservedE => Sys2Proof.Machine.execReservedE s
  | .reservedF => Sys2Proof.Machine.execReservedF s
  | .busWriteLane addr wdata => Sys2Proof.Machine.execBusWriteLane addr wdata s
  | .busReadLane addr => Sys2Proof.Machine.execBusReadLane addr s

end Sys2Proof.Machine
end

