-- ==== Sys2Proof/WellFormed.lean ====
section
/-! DEFINITION. Which operations have a binary form: each operand fits the 32-bit field that carries it (R86, R88, R90). -/

namespace Sys2Proof

/-- The value fits a "signed 32-bit" field (R88). -/
abbrev FitsSigned32 (v : Int) : Prop := -(2 ^ 31) ≤ v ∧ v ≤ 2 ^ 31 - 1

/-- The address fits a 32-bit address field (R86, R90). -/
abbrev FitsAddrField (a : Nat) : Prop := a < 2 ^ 32

/-- Every operand of the operation fits its field, so the operation has a CMD68 or BUS65 form. An operation
that is not well formed in this sense is still an operation (R85); it only cannot be written as a descriptor (assumption 18). -/
abbrev Instr.WellFormed : Instr → Prop
  | .writeWord addr _    => FitsAddrField addr
  | .readWord addr       => FitsAddrField addr
  | .encode re im        => FitsSigned32 re ∧ FitsSigned32 im
  | .decodeRaw _         => True
  | .decodeScaled _ bp   => FitsSigned32 bp
  | .laneAddr i          => FitsSigned32 i
  | .writeSample _       => True
  | .readLane i          => FitsSigned32 i
  | .reserved8           => True
  | .reserved9           => True
  | .reservedA           => True
  | .reservedB           => True
  | .reservedC           => True
  | .reservedD           => True
  | .reservedE           => True
  | .reservedF           => True
  | .busWriteLane addr _ => FitsAddrField addr
  | .busReadLane addr    => FitsAddrField addr

end Sys2Proof
end

