-- ==== Sys2Proof/Decode.lean ====
section
/-! DEFINITION. The decoder of CMD68 descriptors (R86 to R89, R92) and of BUS65 records (R90), the encoder back to
the canonical form, and how the opcode table's numbering of bits is laid out as one of the two forms. -/

namespace Sys2Proof

/-- `op = d[67:64]` (R86). -/
def cmdOp (d : BitVec 68) : BitVec 4 := d.extractLsb' 64 4

/-- `arg0 = d[63:32]` (R86). -/
def cmdArg0 (d : BitVec 68) : Word := d.extractLsb' 32 32

/-- `arg1 = d[31:0]` (R86). -/
def cmdArg1 (d : BitVec 68) : Word := d.extractLsb' 0 32

/-- The descriptor with these three fields (R86). -/
def mkCmd (op : BitVec 4) (arg0 arg1 : Word) : BitVec 68 := op ++ arg0 ++ arg1

/-- The value of a "signed 32-bit" field (R88): `field` if `field < 2^31`, else `field - 2^32`. -/
def signed32 (field : Word) : Int :=
  if field.toNat < 2 ^ 31 then (field.toNat : Int) else (field.toNat : Int) - 2 ^ 32

/-- The 32-bit field that holds a signed value (R88): the value itself, or the value plus `2^32` when negative. The spec
gives no field to a value that does not fit one; DESIGN CHOICE (assumption 18): such a value is cut modulo `2^32`, and
one below `-2^32` gives zero. -/
def signedField (v : Int) : Word := BitVec.ofNat 32 (if 0 ≤ v then v else v + 2 ^ 32).toNat

/-- The 32-bit field that holds an address (R88): its unsigned value. The spec gives no field to an address of `2^32` or
more; DESIGN CHOICE (assumption 18): such an address is cut modulo `2^32`. -/
def addrField (a : Nat) : Word := BitVec.ofNat 32 a

/-- The opcode map (R87), with the reserved selectors `0x8` to `0xF` (R92). Ignored fields are not read (R89). -/
def decodeCmd (d : BitVec 68) : Instr :=
  match (cmdOp d).toNat with
  | 0x0 => .writeWord (cmdArg0 d).toNat (cmdArg1 d)
  | 0x1 => .readWord (cmdArg0 d).toNat
  | 0x2 => .encode (signed32 (cmdArg0 d)) (signed32 (cmdArg1 d))
  | 0x3 => .decodeRaw (cmdArg0 d)
  | 0x4 => .decodeScaled (cmdArg0 d) (signed32 (cmdArg1 d))
  | 0x5 => .laneAddr (signed32 (cmdArg0 d))
  | 0x6 => .writeSample (cmdArg0 d)
  | 0x7 => .readLane (signed32 (cmdArg0 d))
  | 0x8 => .reserved8
  | 0x9 => .reserved9
  | 0xA => .reservedA
  | 0xB => .reservedB
  | 0xC => .reservedC
  | 0xD => .reservedD
  | 0xE => .reservedE
  | _   => .reservedF

/-- `we = b[64]` (R90). -/
def busWe (b : BitVec 65) : Bool := b.getLsbD 64

/-- `addr = b[63:32]` (R90). -/
def busAddr (b : BitVec 65) : Word := b.extractLsb' 32 32

/-- `wdata = b[31:0]` (R90). -/
def busWdata (b : BitVec 65) : Word := b.extractLsb' 0 32

/-- The record with these three fields (R90). -/
def mkBus (we : Bool) (addr wdata : Word) : BitVec 65 := BitVec.ofBool we ++ addr ++ wdata

/-- A BUS65 record names a write or a read by its `we` bit; `wdata` of a read is ignored (R90). Which lane it
reaches, if any, is decided by the address decode when the access is made (R57). -/
def decodeBus (b : BitVec 65) : Instr :=
  if busWe b then .busWriteLane (busAddr b).toNat (busWdata b) else .busReadLane (busAddr b).toNat

/-- Decoding, total on every descriptor and every record (R89, R90): a reserved selector decodes to its own
constructor, never to a neighbour. -/
def decode : Encoded → Instr
  | .cmd68 d => decodeCmd d
  | .bus65 b => decodeBus b

/-- The canonical descriptor or record of an operation (R87, R89, R90): every ignored field is zero. That a reserved
selector, which names no operation, has a canonical descriptor with both arguments zero is a DESIGN CHOICE (assumption 17).
The encoding is meant for the operations of `Instr.WellFormed`, whose operands fit their fields; the spec gives any other
none (R88, D29), and what `encode` answers there, a form that names another operation, is a DESIGN CHOICE (assumption 18). -/
def encode : Instr → Encoded
  | .writeWord addr value    => .cmd68 (mkCmd 0x0#4 (addrField addr) value)
  | .readWord addr           => .cmd68 (mkCmd 0x1#4 (addrField addr) 0#32)
  | .encode re im            => .cmd68 (mkCmd 0x2#4 (signedField re) (signedField im))
  | .decodeRaw word          => .cmd68 (mkCmd 0x3#4 word 0#32)
  | .decodeScaled word bp    => .cmd68 (mkCmd 0x4#4 word (signedField bp))
  | .laneAddr i              => .cmd68 (mkCmd 0x5#4 (signedField i) 0#32)
  | .writeSample word        => .cmd68 (mkCmd 0x6#4 word 0#32)
  | .readLane i              => .cmd68 (mkCmd 0x7#4 (signedField i) 0#32)
  | .reserved8               => .cmd68 (mkCmd 0x8#4 0#32 0#32)
  | .reserved9               => .cmd68 (mkCmd 0x9#4 0#32 0#32)
  | .reservedA               => .cmd68 (mkCmd 0xA#4 0#32 0#32)
  | .reservedB               => .cmd68 (mkCmd 0xB#4 0#32 0#32)
  | .reservedC               => .cmd68 (mkCmd 0xC#4 0#32 0#32)
  | .reservedD               => .cmd68 (mkCmd 0xD#4 0#32 0#32)
  | .reservedE               => .cmd68 (mkCmd 0xE#4 0#32 0#32)
  | .reservedF               => .cmd68 (mkCmd 0xF#4 0#32 0#32)
  | .busWriteLane addr wdata => .bus65 (mkBus true (addrField addr) wdata)
  | .busReadLane addr        => .bus65 (mkBus false (addrField addr) 0#32)

/-- A descriptor with its ignored fields zeroed (R89, the table of R87): `write_word`, `encode` and `decode_scaled`
read both arguments, and the other five operations read `arg0` only. DESIGN CHOICE (assumption 17): both arguments of a
reserved selector count as ignored fields too, where the table of R87 gives "-" and R89 speaks of operations. -/
def canonicalCmd (d : BitVec 68) : BitVec 68 :=
  let op := (cmdOp d).toNat
  if op = 0x0 ∨ op = 0x2 ∨ op = 0x4 then d
  else if op < 0x8 then mkCmd (cmdOp d) (cmdArg0 d) 0#32
  else mkCmd (cmdOp d) 0#32 0#32

/-- A record with its ignored field zeroed (R90): `wdata` of a read. -/
def canonicalBus (b : BitVec 65) : BitVec 65 :=
  if busWe b then b else mkBus false (busAddr b) 0#32

/-- The canonical form of either binary form (R89, R90). -/
def canonical : Encoded → Encoded
  | .cmd68 d => .cmd68 (canonicalCmd d)
  | .bus65 b => .bus65 (canonicalBus b)

/-- Why a bit string of a given length is neither a descriptor nor a record (R93: every descriptor is 68 bits,
every record 65 bits; there is no other form). -/
inductive LayoutError where
  /-- The length is neither 65 to 67 bits (a record) nor 68 bits or more (a descriptor). -/
  | badLength (nbits : Nat)
  /-- The bits above the form's own width are not zero. -/
  | bitsAboveForm (nbits w : Nat)
  deriving DecidableEq, Repr

/-- Which form a bit string is, by its length alone (assumption 5): 65 to 67 bits are a BUS65 record, 68 to 72
bits a CMD68 descriptor (72 bits is 68 rounded up to whole bytes). -/
def layOut (nbits w : Nat) : Except LayoutError Encoded :=
  if nbits < 65 ∨ 72 < nbits then .error (.badLength nbits)
  else if nbits < 68 then
    if w < 2 ^ 65 then .ok (.bus65 (BitVec.ofNat 65 w)) else .error (.bitsAboveForm nbits w)
  else
    if w < 2 ^ 68 then .ok (.cmd68 (BitVec.ofNat 68 w)) else .error (.bitsAboveForm nbits w)

/-- The operation the decoder reads from a bit string numbered as spec/opcode_table.json numbers it. -/
def decodeTableWord (nbits w : Nat) : Option Instr :=
  match layOut nbits w with
  | .ok e    => some (decode e)
  | .error _ => none

end Sys2Proof
end

