-- ==== Sys2Proof/Machine/Fetch.lean ====
section
/-! DEFINITION. What the next step has to do: the next request is taken from the inbox and, where it is a binary
form, decoded. The hardware fetches no instructions (R27, R68); its operations arrive from the caller. -/

namespace Sys2Proof.Machine

/-- What a step finds to do. -/
inductive Fetched where
  /-- Nothing was asked. -/
  | idle
  /-- An operation, and the state with its request taken. -/
  | run (i : Instr) (s : State)
  /-- The reset event has happened; the state it leaves. -/
  | wasReset (s : State)
  /-- The model gives this step no meaning. -/
  | refuse (r : Refusal)
  deriving DecidableEq, Repr

/-- One request, the rest of the inbox already put back in `s`. A binary form needs `ADDR_W <= 32` (R86, assumption 6). -/
def serve (r : Request) (s : State) : Fetched :=
  match r with
  | .form e => if s.cfg.addrW ≤ 32 then .run (decode e) s else .refuse .formatNeedsNarrowAddr
  | .op i   => .run i s
  | .reset  => .wasReset (resetEvent s)

/-- The next request, if the configuration is well formed (R11: the hardware is defined for no other). -/
def fetch (s : State) : Fetched :=
  if ConfigOK s.cfg then
    match s.inbox with
    | []        => .idle
    | r :: rest => serve r { s with inbox := rest }
  else .refuse .illFormedConfig

/-- A request put where the next fetch takes it. -/
def offer (r : Request) (s : State) : State := { s with inbox := r :: s.inbox }

/-- A table row's bits offered as the binary form their length says (assumption 5); other lengths offer nothing. -/
def offerTableWord (s : State) (nbits w : Nat) : State :=
  match layOut nbits w with
  | .ok e    => offer (.form e) s
  | .error _ => s

end Sys2Proof.Machine
end

