-- ==== Sys2Proof/Machine/Step.lean ====
section
/-! DEFINITION. One step: the next request is served, by one operation (R7) or by the reset event (R190). -/

namespace Sys2Proof.Machine

/-- One step of the machine. With nothing asked it changes nothing: every state change is the direct effect of a
request (R170). -/
def step (s : State) : Host.Outcome State Fault Refusal :=
  match fetch s with
  | .idle        => .next s
  | .run i s'    => exec i s'
  | .wasReset s' => .next s'
  | .refuse r    => .refused r

/-- The state with a table row's bits as the next request (assumption 2). -/
def State.withFetchWord (s : State) (nbits w : Nat) : State := offerTableWord s nbits w

end Sys2Proof.Machine
end

