-- ==== Sys2Proof/Machine/Pseudo.lean ====
section
/-! DEFINITION. The pseudo-operations (R95, R146, R147): each runs operations in order, stops at the first that
faults, and keeps the effects of those before it. They have no selector and are no rows of the table (assumption 8). -/

namespace Sys2Proof.Machine

/-- Goes on with the word the operation returned; an operation that faulted ends the pseudo-operation (R95). -/
def thenWord (o : StepOutcome) (k : Word → State → StepOutcome) : StepOutcome :=
  match o with
  | .next s =>
    match s.response with
    | some (.ok (.word w)) => k w s
    | _                    => .next s
  | .fault f   => .fault f
  | .refused r => .refused r

/-- Goes on after an operation that completed; one that faulted ends the pseudo-operation (R95). -/
def thenDo (o : StepOutcome) (k : State → StepOutcome) : StepOutcome :=
  match o with
  | .next s =>
    match s.response with
    | some (.ok _) => k s
    | _            => .next s
  | .fault f   => .fault f
  | .refused r => .refused r

/-- `write_complex(re, im)` is `write_sample(encode(re, im))` (R95, R146). -/
def pseudoWriteComplex (re im : Int) (s : State) : StepOutcome :=
  thenWord (execEncode re im s) execWriteSample

/-- `read_raw(i)` is `decode_raw(read_lane(i))` (R95, R146). -/
def pseudoReadRaw (i : Int) (s : State) : StepOutcome :=
  thenWord (execReadLane i s) execDecodeRaw

/-- `read_scaled(i)` is `decode_scaled(read_lane(i), BP)`, the configured `BP` checked first (R95, R146). -/
def pseudoReadScaled (i : Int) (s : State) : StepOutcome :=
  match radixFault s.cfg s.cfg.bp with
  | some f => .next (raise f s)
  | none   => thenWord (execReadLane i s) fun w t => execDecodeScaled w t.cfg.bp t

/-- The write loop of `transact` (R147), then `k`. -/
def writeAll (ws : List Word) (k : State → StepOutcome) (s : State) : StepOutcome :=
  match ws with
  | []      => k s
  | w :: ws => thenDo (execWriteSample w s) (writeAll ws k)

/-- The read loop of `transact` (R147): `got` holds the words read so far, in order; at the end they are the result. -/
def readAll (lanes : List Nat) (got : List Word) (s : State) : StepOutcome :=
  match lanes with
  | []         => .next (respond (.words got) s)
  | i :: lanes => thenWord (execReadLane i s) fun w t => readAll lanes (got ++ [w]) t

/-- `transact(w_0, ..., w_{N-1})` (R147): all writes in ascending order, then all reads in ascending order. A listing
with another number of words than `N` is refused. -/
def pseudoTransact (ws : List Word) (s : State) : StepOutcome :=
  if ws.length = s.cfg.n then writeAll ws (readAll (List.range s.cfg.n) []) s
  else .refused (.transactOperandCount ws.length)

end Sys2Proof.Machine
end

