-- ==== Sys2Proof/Safety.lean ====
section
/-! DEFINITION. What claims are stated in: the invariants of R30, complete transactions and runs that end well (R148),
what the caller of a run sees (R70), which faults an operation
can raise (R168), and the shape of a history without the values the oracle gave. -/

namespace Sys2Proof.Safety

open Sys2Proof.Machine

/-- The invariants of R30, clause by clause, over a well-formed configuration. -/
structure Invariants (s : State) : Prop where
  /-- The hardware exists at all (R11). -/
  config : ConfigOK s.cfg
  /-- (1) -/
  bounded : s.inseq.length ≤ s.cfg.n
  /-- (2) -/
  numbered : ∀ k (h : k < s.log.length), s.log[k].seq = k
  /-- (3), writes -/
  writesAtLane : ∀ a ∈ s.log, a.kind = .wr → a.addr = s.cfg.writeLaneAddr
  /-- (3), reads -/
  readsAtLanes : ∀ a ∈ s.log, a.kind = .rd → ∃ i < s.cfg.n, a.addr = readLaneAddr s.cfg i
  /-- (4) -/
  sequence : 1 ≤ s.inseq.length → s.inseq = lastWords s.inseq.length (writtenWords s.log)
  /-- (5) -/
  readsAfterWrites : ∀ k (h : k < s.log.length), s.log[k].kind = .rd → s.cfg.n ≤ (writtenWords (s.log.take k)).length
  /-- (6), write phase -/
  countInWritePhase : s.inseq.length < s.cfg.n → (writtenWords s.log).length % s.cfg.n = s.inseq.length % s.cfg.n
  /-- (6), read phase -/
  countInReadPhase : s.inseq.length = s.cfg.n →
    0 < (writtenWords s.log).length ∧ (writtenWords s.log).length % s.cfg.n = 0

/-- A complete transaction (R148): the entries of a history are `N` writes of the write lane and then a read of every
lane, in any order and number. -/
def CompleteTransaction (c : Cfg) (entries : List Access) : Prop :=
  ∃ writes reads, entries = writes ++ reads ∧ writes.length = c.n ∧
    (∀ a ∈ writes, a.kind = .wr ∧ a.addr = c.writeLaneAddr) ∧
    (∀ a ∈ reads, a.kind = .rd) ∧
    (∀ i < c.n, ∃ a ∈ reads, a.addr = readLaneAddr c i)

/-- Operations run in order, one step each (R148). -/
def runOps : List Instr → State → StepOutcome
  | [], s      => .next s
  | i :: is, s =>
    match exec i s with
    | .next t    => runOps is t
    | .fault f   => .fault f
    | .refused r => .refused r

/-- The outcomes the caller sees while the operations run (R16, R70), in order. -/
def outcomes : List Instr → State → List (Option Response)
  | [], _      => []
  | i :: is, s =>
    match exec i s with
    | .next t    => t.response :: outcomes is t
    | .fault _   => []
    | .refused _ => []

/-- Every operation of the run returned `Ok` (R148). -/
def AllOk (is : List Instr) (s : State) : Prop := ∀ r ∈ outcomes is s, ∃ v, r = some (.ok v)

/-- A state a run can end well in (R148): no fault is recorded and no sequence is left half written. -/
def EndsWell (s : State) : Prop := s.fault = none ∧ (s.inseq.length = 0 ∨ s.inseq.length = s.cfg.n)

/-- What each access was, without the word it carried. -/
def accessShape (log : List Access) : List (AccessKind × Nat) := log.map fun a => (a.kind, a.addr)

/-- The operations that write the write lane when they do not fault (R110, R142, R90). -/
def writesLane : Instr → Bool
  | .writeWord _ _    => true
  | .writeSample _    => true
  | .busWriteLane _ _ => true
  | .readWord _       => false
  | .encode _ _       => false
  | .decodeRaw _      => false
  | .decodeScaled _ _ => false
  | .laneAddr _       => false
  | .readLane _       => false
  | .reserved8        => false
  | .reserved9        => false
  | .reservedA        => false
  | .reservedB        => false
  | .reservedC        => false
  | .reservedD        => false
  | .reservedE        => false
  | .reservedF        => false
  | .busReadLane _    => false

/-- The operations that read a read lane when they do not fault (R112, R144, R90). -/
def readsLane : Instr → Bool
  | .readWord _       => true
  | .readLane _       => true
  | .busReadLane _    => true
  | .writeWord _ _    => false
  | .encode _ _       => false
  | .decodeRaw _      => false
  | .decodeScaled _ _ => false
  | .laneAddr _       => false
  | .writeSample _    => false
  | .reserved8        => false
  | .reserved9        => false
  | .reservedA        => false
  | .reservedB        => false
  | .reservedC        => false
  | .reservedD        => false
  | .reservedE        => false
  | .reservedF        => false
  | .busWriteLane _ _ => false

/-- Any fault the outcome delivers has one of these codes (R168). -/
def FaultsOnly (o : StepOutcome) (codes : List Nat) : Prop :=
  ∀ t f, o = .next t → t.response = some (.fault f) → faultCode f ∈ codes

/-- On some hardware and in some state the operation delivers a fault of this code (R168). -/
def CanFault (run : State → StepOutcome) (code : Nat) : Prop :=
  ∃ s t f, ConfigOK s.cfg ∧ run s = .next t ∧ t.response = some (.fault f) ∧ faultCode f = code

/-- The state with the sticky record left out: what operations read and write (R175). -/
def withoutRecord (s : State) : State := { s with fault := none }

end Sys2Proof.Safety
end

