-- ==== Sys2Proof/Certificates/Slice0/Obligations.lean ====
section
/-! DEFINITION. The statements for the provers. Each docstring names the rule of spec/ it formalises. Every statement is
over all states, and so over every configuration, unless it names one. -/

open Sys2Proof Sys2Proof.Machine Sys2Proof.Safety

/-! ### Reset, configuration, step -/

/-- R39: the state after reset, on every hardware that can be instantiated; the lane contents are not observable: no read
of a lane returns before `N` words have been written, on the state after reset or any other. That a bus record handed in is
such a read is assumption 14. -/
def Obligations.ResetStateAsSpecified : Prop :=
  (State.reset.inseq = [] ∧ State.reset.log = [] ∧ State.reset.fault = none) ∧
  (∀ c, ConfigOK c → ∃ s, instantiate c = .next s ∧ s.cfg = c ∧ s.inseq = [] ∧ s.log = [] ∧ s.fault = none ∧
    s.inseq.length < s.cfg.n) ∧
  ∀ s, ConfigOK s.cfg → s.inseq.length < s.cfg.n → ∀ i : Nat, i < s.cfg.n →
    exec (.readLane i) s = .next (raise (.protocolViolation s.inseq.length) s) ∧
    exec (.readWord (readLaneAddr s.cfg i)) s = .next (raise (.protocolViolation s.inseq.length) s) ∧
    exec (.busReadLane (readLaneAddr s.cfg i)) s = .next (raise (.protocolViolation s.inseq.length) s)

/-- R191, R190: the reset event, from any state. What happens to `response` is the model's choice (assumption 3),
and that the inbox and the count of choices outlive a reset is too (assumptions 2 and 4). D20 of 92_eei_decisions.md:
"ASSUMED: the core's input index resets with the front end's" (assumption 10). -/
def Obligations.ResetEventClearsTheSpecsState : Prop :=
  ∀ s rest, ConfigOK s.cfg → s.inbox = .reset :: rest →
    step s = .next { s with inseq := [], log := [], fault := none, response := none, inbox := rest }

/-- R7, R8: one step is one operation; the inbox is the model's rendering of the caller (assumption 2). That `step` and
`exec` of a read give one word is the model's: both are given the same choice (assumption 4). -/
def Obligations.StepRunsTheDecodedOperation : Prop :=
  ∀ s, ConfigOK s.cfg →
    (s.inbox = [] → step s = .next s) ∧
    (∀ i rest, s.inbox = .op i :: rest → step s = exec i { s with inbox := rest }) ∧
    (∀ e rest, s.inbox = .form e :: rest → s.cfg.addrW ≤ 32 →
      (decode e).WellFormed ∧ step s = exec (decode e) { s with inbox := rest })

/-- R11: the seven clauses, the two example configurations, and the refusal of every other configuration. R11 speaks of
instantiation; that `step` too refuses an ill-formed configuration is the model's deduction (assumption 13). -/
def Obligations.OnlyWellFormedConfigurationsRun : Prop :=
  (∀ c : Cfg, ConfigOK c ↔
    (c.n ≥ 1 ∧ c.w = 16 ∧ c.wordW = 32 ∧ 0 ≤ c.bp ∧ c.bp ≤ c.w ∧ (c.scaleSign = 1 ∨ c.scaleSign = -1) ∧
     c.stride ≥ 4 ∧ 4 ∣ c.stride ∧ 4 ∣ c.readBase ∧ 4 ∣ c.writeLaneAddr ∧
     c.readBase + (c.n - 1) * c.stride + 4 ≤ 2 ^ c.addrW ∧ c.writeLaneAddr + 4 ≤ 2 ^ c.addrW ∧
     ∀ i, i < c.n → c.writeLaneAddr ≠ c.readBase + i * c.stride)) ∧
  ConfigOK cfgEx ∧ ConfigOK cfgN4 ∧
  (∀ c, ¬ ConfigOK c → instantiate c = .refused .illFormedConfig) ∧
  (∀ s, ¬ ConfigOK s.cfg → step s = .refused .illFormedConfig)

/-- R86 and D2 require `ADDR_W <= 32` of the binary forms; that the model refuses them otherwise is assumption 6. -/
def Obligations.BinaryFormsNeedNarrowAddresses : Prop :=
  ∀ s e rest, ConfigOK s.cfg → s.inbox = .form e :: rest → 32 < s.cfg.addrW →
    step s = .refused .formatNeedsNarrowAddr

/-- R33, R28, R8: a step never changes the configuration, issues at most one access, at the end of the history, and only
the reset event shortens the history. -/
def Obligations.StepIssuesAtMostOneAccess : Prop :=
  ∀ s t, step s = .next t →
    t.cfg = s.cfg ∧
    ((∃ new : List Access, t.log = s.log ++ new ∧ new.length ≤ 1) ∨
     (∃ rest, s.inbox = .reset :: rest ∧ t.log = []))

/-! ### Encodings -/

/-- R87, R88: what each selector names and how its operands are read from the two fields. -/
def Obligations.DescriptorSelectsTheOperation : Prop :=
  (∀ a b : Word,
    decode (.cmd68 (0x0#4 ++ a ++ b)) = .writeWord a.toNat b ∧
    decode (.cmd68 (0x1#4 ++ a ++ b)) = .readWord a.toNat ∧
    decode (.cmd68 (0x2#4 ++ a ++ b)) =
      .encode (if a.toNat < 2 ^ 31 then (a.toNat : Int) else (a.toNat : Int) - 2 ^ 32)
        (if b.toNat < 2 ^ 31 then (b.toNat : Int) else (b.toNat : Int) - 2 ^ 32) ∧
    decode (.cmd68 (0x3#4 ++ a ++ b)) = .decodeRaw a ∧
    decode (.cmd68 (0x4#4 ++ a ++ b)) =
      .decodeScaled a (if b.toNat < 2 ^ 31 then (b.toNat : Int) else (b.toNat : Int) - 2 ^ 32) ∧
    decode (.cmd68 (0x5#4 ++ a ++ b)) =
      .laneAddr (if a.toNat < 2 ^ 31 then (a.toNat : Int) else (a.toNat : Int) - 2 ^ 32) ∧
    decode (.cmd68 (0x6#4 ++ a ++ b)) = .writeSample a ∧
    decode (.cmd68 (0x7#4 ++ a ++ b)) =
      .readLane (if a.toNat < 2 ^ 31 then (a.toNat : Int) else (a.toNat : Int) - 2 ^ 32)) ∧
  (∀ (d : BitVec 68) (s : State), 8 ≤ (d.extractLsb' 64 4).toNat →
    exec (decode (.cmd68 d)) s = .next (raise (.illegalCommand (d.extractLsb' 64 4)) s)) ∧
  (∀ s : State,
    exec (decode (.cmd68 0x2_FFFFFF4B_FFFFFF4B#68)) s = .next (respond (.word 0xFF4BFF4B#32) s) ∧
    exec (decode (.cmd68 0x2_0000FF4B_00000000#68)) s = .next (raise (.valueOutOfRange 0 65355) s))

/-- R89: canonical descriptors. That the two arguments of a reserved selector count as ignored fields, zero in its canonical
form, is the model's choice (assumption 17); R89 gives a canonical form to the descriptors of operations. What `encode`
answers for an operand that does not fit its field is the model's choice too (assumption 18). -/
def Obligations.CanonicalDescriptors : Prop :=
  (∀ d, decode (.cmd68 (canonicalCmd d)) = decode (.cmd68 d)) ∧
  (∀ d, encode (decode (.cmd68 d)) = .cmd68 (canonicalCmd d)) ∧
  (∀ i d, encode i = .cmd68 d → canonicalCmd d = d) ∧
  (∀ d, (d.extractLsb' 64 4).toNat ∈ [0x0, 0x2, 0x4] → canonicalCmd d = d) ∧
  (∀ d, (d.extractLsb' 64 4).toNat ∈ [0x1, 0x3, 0x5, 0x6, 0x7] →
    canonicalCmd d = d.extractLsb' 64 4 ++ d.extractLsb' 32 32 ++ 0#32) ∧
  (∀ d, 8 ≤ (d.extractLsb' 64 4).toNat → canonicalCmd d = d.extractLsb' 64 4 ++ 0#64) ∧
  (∀ d, decode (.cmd68 d) ∈ [Instr.reserved8, .reserved9, .reservedA, .reservedB, .reservedC, .reservedD, .reservedE,
      .reservedF] ↔ 8 ≤ (d.extractLsb' 64 4).toNat) ∧
  (∀ d a w, decode (.cmd68 d) ≠ .busWriteLane a w ∧ decode (.cmd68 d) ≠ .busReadLane a)

/-- R86 to R90: no bit of an encoding is dropped, for every operation that has a binary form. -/
def Obligations.DecodeInvertsEncode : Prop :=
  ∀ i : Instr, i.WellFormed → decode (encode i) = i

/-- R90: how a record is read, and its ignored field. -/
def Obligations.BusRecordsSelectTheAccess : Prop :=
  (∀ addr wdata : Word,
    decode (.bus65 (1#1 ++ addr ++ wdata)) = .busWriteLane addr.toNat wdata ∧
    decode (.bus65 (0#1 ++ addr ++ wdata)) = .busReadLane addr.toNat) ∧
  (∀ addr wdata : Word,
    encode (.busWriteLane addr.toNat wdata) = .bus65 (1#1 ++ addr ++ wdata) ∧
    encode (.busReadLane addr.toNat) = .bus65 (0#1 ++ addr ++ 0#32)) ∧
  (∀ b, encode (decode (.bus65 b)) = .bus65 (canonicalBus b)) ∧
  (∀ b, decode (.bus65 (canonicalBus b)) = decode (.bus65 b))

/-- R90: the access an operation makes is the BUS65 record of its history entry. That the record handed in makes that access
is assumption 14. That a read and its record give one word is the model's: both are given the same history and the same
choice (assumption 4). -/
def Obligations.HistoryEntryIsItsBusRecord : Prop :=
  ∀ i s t, (writesLane i ∨ readsLane i) → exec i s = .next t → (∃ v, t.response = some (.ok v)) →
    ∃ a, t.log = s.log ++ [a] ∧ exec (accessRecord a) s = .next t ∧
      (ConfigOK s.cfg → s.cfg.addrW ≤ 32 → decode (encode (accessRecord a)) = accessRecord a)

/-- R88, R89: decoding is total and every operand lies in its field's range. -/
def Obligations.DecodedOperationsAreWellFormed : Prop :=
  ∀ e : Encoded, (decode e).WellFormed

/-- Table C of 95_test_vectors.md, all thirteen rows in its order, and the record shapes of R91. -/
def Obligations.SpecsWordsDecode : Prop :=
  decode (.cmd68 0x0_00002000_00010000#68) = .writeWord 0x2000 0x00010000#32 ∧
  decode (.cmd68 0x1_00002020_00000000#68) = .readWord 0x2020 ∧
  decode (.cmd68 0x1_00002020_DEADBEEF#68) = .readWord 0x2020 ∧
  decode (.cmd68 0x2_FFFFFF4B_FFFFFF4B#68) = .encode (-181) (-181) ∧
  decode (.cmd68 0x3_FF4BFF4B_00000000#68) = .decodeRaw 0xFF4BFF4B#32 ∧
  decode (.cmd68 0x4_00000001_00000008#68) = .decodeScaled 0x00000001#32 8 ∧
  decode (.cmd68 0x4_00000001_FFFFFFFF#68) = .decodeScaled 0x00000001#32 (-1) ∧
  decode (.cmd68 0x5_00000003_00000000#68) = .laneAddr 3 ∧
  decode (.cmd68 0x6_00010000_00000000#68) = .writeSample 0x00010000#32 ∧
  decode (.cmd68 0x7_00000003_00000000#68) = .readLane 3 ∧
  decode (.cmd68 0x7_FFFFFFFF_00000000#68) = .readLane (-1) ∧
  decode (.cmd68 0x8_00000000_00000000#68) = .reserved8 ∧
  decode (.cmd68 0xF_FFFFFFFF_FFFFFFFF#68) = .reservedF ∧
  decode (.bus65 0x1_00002000_00010000#65) = .busWriteLane 0x2000 0x00010000#32 ∧
  decode (.bus65 0x0_00002020_00000000#65) = .busReadLane 0x2020

/-! ### The sample codec -/

/-- R13, R14: patterns and components. -/
def Obligations.ComponentPatterns : Prop :=
  (∀ c, IsS16 c → toS16 (toU16 c) = c ∧ (toU16 c).toNat = (if 0 ≤ c then c else c + 65536).toNat) ∧
  (∀ p, toU16 (toS16 p) = p ∧ IsS16 (toS16 p)) ∧
  (∀ p, (sext32 p).toInt = toS16 p ∧ (zext32 p).toNat = p.toNat)

/-- R82: the word of a sample; `encode` completes for every Complex Sample and changes no state of the hardware. -/
def Obligations.EncodePacksTheSample : Prop :=
  ∀ (re im : Int) (s : State), IsS16 re → IsS16 im →
    ∃ w : Word, exec (.encode re im) s = .next { s with response := some (.ok (.word w)) } ∧
      (w.toNat : Int) = (if 0 ≤ re then re else re + 65536) * 65536 + (if 0 ≤ im then im else im + 65536) ∧
      ((w.extractLsb' 16 16).toNat : Int) = (if 0 ≤ re then re else re + 65536) ∧
      ((w.extractLsb' 0 16).toNat : Int) = (if 0 ≤ im then im else im + 65536)

/-- R166, R121: a component that does not fit is refused, the real one first, with no word. -/
def Obligations.EncodeRefusesWideComponents : Prop :=
  ∀ (re im : Int) (s : State),
    (¬ (-32768 ≤ re ∧ re ≤ 32767) → exec (.encode re im) s = .next (raise (.valueOutOfRange 0 re) s)) ∧
    ((-32768 ≤ re ∧ re ≤ 32767) → ¬ (-32768 ≤ im ∧ im ≤ 32767) →
      exec (.encode re im) s = .next (raise (.valueOutOfRange 1 im) s))

/-- R83: `decode_raw` completes on every word; each field is read with its own sign bit. -/
def Obligations.DecodeRawSignExtendsEachField : Prop :=
  (∀ (w : Word) (s : State), exec (.decodeRaw w) s = .next { s with response := some (.ok (.sample
    (if w.toNat / 65536 < 32768 then ((w.toNat / 65536 : Nat) : Int) else ((w.toNat / 65536 : Nat) : Int) - 65536)
    (if w.toNat % 65536 < 32768 then ((w.toNat % 65536 : Nat) : Int) else ((w.toNat % 65536 : Nat) : Int) - 65536))) }) ∧
  (∀ s : State, exec (.decodeRaw 0xFF4B0000#32) s = .next { s with response := some (.ok (.sample (-181) 0)) })

/-- R123: `encode` and `decode_raw` are inverse, both ways, through the operations themselves. -/
def Obligations.EncodeAndDecodeRawAreInverse : Prop :=
  (∀ (re im : Int) (s t : State), IsS16 re → IsS16 im →
    ∃ w, exec (.encode re im) s = .next (respond (.word w) s) ∧
      exec (.decodeRaw w) t = .next (respond (.sample re im) t)) ∧
  (∀ (w : Word) (s t : State),
    ∃ re im, IsS16 re ∧ IsS16 im ∧ exec (.decodeRaw w) s = .next (respond (.sample re im) s) ∧
      exec (.encode re im) t = .next (respond (.word w) t))

/-- R124, R84: the scaled components, exact rationals, for every legal `bp` and either sign of the exponent. The sign +1 is
the source's formula; -1 is a platform's (D7 of 92_eei_decisions.md, assumption 11). -/
def Obligations.DecodeScaledMultipliesByPowerOfTwo : Prop :=
  ∀ (w : Word) (bp : Int) (s : State), 0 ≤ bp → bp ≤ s.cfg.w →
    exec (.decodeScaled w bp) s = .next { s with response := some (.ok (.scaled
      ((realOf w : Rat) * 2 ^ (s.cfg.scaleSign * bp)) ((imagOf w : Rat) * 2 ^ (s.cfg.scaleSign * bp)))) }

/-- R125: the check on the operand, before any decoding; the operand need not be the configured `BP`. -/
def Obligations.DecodeScaledRejectsRadixOutOfRange : Prop :=
  ∀ (w : Word) (bp : Int) (s : State), s.cfg.w = 16 →
    (bp < 0 ∨ 16 < bp → exec (.decodeScaled w bp) s = .next (raise (.invalidConfig bp) s)) ∧
    (0 ≤ bp ∧ bp ≤ 16 → ∃ re im, exec (.decodeScaled w bp) s = .next (respond (.scaled re im) s))

/-- R127: the source's scaling example, corrected. -/
def Obligations.ScalingExampleCorrected : Prop :=
  ∀ s : State, s.cfg.w = 16 → s.cfg.scaleSign = 1 →
    exec (.decodeScaled 0x00000001#32 8) s = .next (respond (.scaled 0 256) s) ∧
    exec (.decodeScaled 0x00000100#32 8) s = .next (respond (.scaled 0 65536) s)

/-- R126: with `SCALE_SIGN = +1` every result is an integer in the stated range; with either sign it is a dyadic rational
with at most 16 fractional bits; `bp = 0` is the raw value (R124). -/
def Obligations.ScaledResultsAreExact : Prop :=
  ∀ (w : Word) (bp : Int) (s t : State), ConfigOK s.cfg → exec (.decodeScaled w bp) s = .next t →
    ∀ re im, t.response = some (.ok (.scaled re im)) →
      (s.cfg.scaleSign = 1 → ∃ r i : Int, re = r ∧ im = i ∧
        -2147483648 ≤ r ∧ r ≤ 2147418112 ∧ -2147483648 ≤ i ∧ i ≤ 2147418112) ∧
      (∃ r i : Int, re * 2 ^ 16 = r ∧ im * 2 ^ 16 = i) ∧
      (bp = 0 → re = realOf w ∧ im = imagOf w)

/-- R131: the bounds of the scaled value. -/
def Obligations.ScaledValueBounds : Prop :=
  (∀ c bp : Int, IsS16 c → 0 ≤ bp → bp ≤ 16 →
    scaleComponent 1 bp (-32768) ≤ scaleComponent 1 bp c ∧ scaleComponent 1 bp c ≤ scaleComponent 1 bp 32767) ∧
  (scaleComponent 1 0 (-32768) = -32768 ∧ scaleComponent 1 0 32767 = 32767 ∧ scaleComponent 1 0 1 = 1) ∧
  (scaleComponent 1 8 (-32768) = -8388608 ∧ scaleComponent 1 8 32767 = 8388352 ∧ scaleComponent 1 8 1 = 256) ∧
  (scaleComponent 1 16 (-32768) = -2147483648 ∧ scaleComponent 1 16 32767 = 2147418112 ∧
    scaleComponent 1 16 1 = 65536) ∧
  (∀ c : Int, IsS16 c →
    scaleComponent (-1) 8 (-32768) ≤ scaleComponent (-1) 8 c ∧ scaleComponent (-1) 8 c ≤ scaleComponent (-1) 8 32767) ∧
  (scaleComponent (-1) 8 (-32768) = -128 ∧ scaleComponent (-1) 8 32767 = 127.99609375 ∧
    scaleComponent (-1) 8 1 = 0.00390625)

/-- R128: the codec operations are functions of their operands alone, and touch at most the sticky record. -/
def Obligations.CodecIsPure : Prop :=
  ∀ i, ((∃ re im, i = .encode re im) ∨ (∃ w, i = .decodeRaw w) ∨ (∃ w bp, i = .decodeScaled w bp)) →
    ∀ s s' : State, s'.cfg = s.cfg → ∃ r,
      exec i s = .next { s with
        response := some r, fault := match r with | .ok _ => s.fault | .fault f => stick s.fault f } ∧
      exec i s' = .next { s' with
        response := some r, fault := match r with | .ok _ => s'.fault | .fault f => stick s'.fault f }

/-! ### The address map -/

/-- R57: `Decode`, and `lane_addr` as its inverse. -/
def Obligations.AddressDecodeIsTheMap : Prop :=
  ∀ c, ConfigOK c →
    (∀ a, decodeLane c .wr a = .wl ↔ a = c.writeLaneAddr) ∧
    (∀ a i, decodeLane c .rd a = .rl i ↔
      c.readBase ≤ a ∧ (a - c.readBase) % c.stride = 0 ∧ i = (a - c.readBase) / c.stride ∧ i < c.n) ∧
    (∀ a, decodeLane c .rd a ≠ .wl) ∧ (∀ a i, decodeLane c .wr a ≠ .rl i) ∧
    (∀ a, decodeLane c .wr a = .unmapped ∨ decodeLane c .rd a = .unmapped) ∧
    (∀ (i : Nat) (s : State), s.cfg = c → i < c.n → ∃ a, exec (.laneAddr i) s = .next (respond (.addr a) s) ∧
      decodeLane c .rd a = .rl i ∧ ∀ j, decodeLane c .rd a = .rl j → j = i)

/-- R58: every unmapped access faults, is not issued, and answers no value. -/
def Obligations.UnmappedAccessesFault : Prop :=
  ∀ s, ConfigOK s.cfg →
    (∀ a v, a ≠ s.cfg.writeLaneAddr →
      exec (.writeWord a v) s = .next { s with
        fault := stick s.fault (.unmappedAccess .wr a), response := some (.fault (.unmappedAccess .wr a)) }) ∧
    (∀ (i : Nat) (v : Word), i < s.cfg.n →
      exec (.writeWord (s.cfg.readBase + i * s.cfg.stride) v) s =
        .next (raise (.unmappedAccess .wr (s.cfg.readBase + i * s.cfg.stride)) s)) ∧
    (∀ a, (∀ i < s.cfg.n, a ≠ s.cfg.readBase + i * s.cfg.stride) →
      exec (.readWord a) s = .next { s with
        fault := stick s.fault (.unmappedAccess .rd a), response := some (.fault (.unmappedAccess .rd a)) }) ∧
    (∀ a, (a = s.cfg.writeLaneAddr ∨ a < s.cfg.readBase ∨ s.cfg.readBase + s.cfg.n * s.cfg.stride ≤ a ∨
        (∃ i off, i < s.cfg.n ∧ 0 < off ∧ off < s.cfg.stride ∧ a = s.cfg.readBase + i * s.cfg.stride + off)) →
      ∀ i < s.cfg.n, a ≠ s.cfg.readBase + i * s.cfg.stride)

/-- R60: the map of `CFG_EX`. -/
def Obligations.ExampleAddressMap : Prop :=
  (∀ a, decodeLane cfgEx .wr a = if a = 0x2000 then .wl else .unmapped) ∧
  (∀ a, decodeLane cfgEx .rd a =
    if a = 0x2008 then .rl 0 else if a = 0x2010 then .rl 1 else if a = 0x2018 then .rl 2 else if a = 0x2020 then .rl 3
    else if a = 0x2028 then .rl 4 else if a = 0x2030 then .rl 5 else if a = 0x2038 then .rl 6
    else if a = 0x2040 then .rl 7 else .unmapped)

/-- R86, R11: an address with a bit above `ADDR_W` is outside the address space and unmapped. -/
def Obligations.AddressesAboveTheSpaceAreUnmapped : Prop :=
  ∀ s a v, ConfigOK s.cfg → 2 ^ s.cfg.addrW ≤ a →
    exec (.writeWord a v) s = .next (raise (.unmappedAccess .wr a) s) ∧
    exec (.readWord a) s = .next (raise (.unmappedAccess .rd a) s)

/-- R140: the address of a lane, distinct for distinct indices, never wrapping. -/
def Obligations.LaneAddrFormsTheAddress : Prop :=
  ∀ s, ConfigOK s.cfg →
    (∀ i : Int, 0 ≤ i → i < s.cfg.n →
      exec (.laneAddr i) s = .next { s with response := some (.ok (.addr (s.cfg.readBase + i.toNat * s.cfg.stride))) } ∧
      s.cfg.readBase + i.toNat * s.cfg.stride + 4 ≤ 2 ^ s.cfg.addrW) ∧
    (∀ i j : Nat, i < s.cfg.n → j < s.cfg.n → exec (.laneAddr i) s = exec (.laneAddr j) s → i = j)

/-- R141: an index out of range forms no address and issues no access, in every phase. -/
def Obligations.IndexOutOfRangeRejected : Prop :=
  ∀ (s : State) (i : Int), i < 0 ∨ (s.cfg.n : Int) ≤ i →
    exec (.laneAddr i) s = .next (raise (.invalidIndex i) s) ∧
    exec (.readLane i) s = .next (raise (.invalidIndex i) s) ∧
    pseudoReadRaw i s = .next (raise (.invalidIndex i) s) ∧
    (ConfigOK s.cfg → pseudoReadScaled i s = .next (raise (.invalidIndex i) s)) ∧
    (raise (.invalidIndex i) s).log = s.log

/-! ### Accesses -/

/-- R111: `MemWrite`, as `write_word` and a bus write make it. That a write after a complete sequence begins a new one is
the spec's INFERRED choice: D12 of 92_eei_decisions.md, "The restart on the `(N+1)`-th write is INFERRED"
(assumption 11). That a bus record handed in makes the same access is assumption 14. -/
def Obligations.WriteAccess : Prop :=
  ∀ (a : Nat) (v : Word) (s : State) (i : Instr), (i = .writeWord a v ∨ i = .busWriteLane a v) →
    (a = s.cfg.writeLaneAddr →
      exec i s = .next { s with
        log := s.log ++ [{ seq := s.log.length, kind := .wr, addr := a, data := v }],
        inseq := if s.inseq.length = s.cfg.n then [v] else s.inseq ++ [v],
        response := some (.ok .unit) }) ∧
    (a ≠ s.cfg.writeLaneAddr → exec i s = .next (raise (.unmappedAccess .wr a) s))

/-- R142: `write_sample` is `write_word` at the write lane, never faults, and is legal in every phase. The restart after a
complete sequence is INFERRED by the spec (D12, assumption 11). -/
def Obligations.WriteSampleWritesTheLane : Prop :=
  ∀ (w : Word) (s : State),
    exec (.writeSample w) s = exec (.writeWord s.cfg.writeLaneAddr w) s ∧
    exec (.writeSample w) s = .next { s with
      log := s.log ++ [{ seq := s.log.length, kind := .wr, addr := s.cfg.writeLaneAddr, data := w }],
      inseq := if s.inseq.length = s.cfg.n then [w] else s.inseq ++ [w],
      response := some (.ok .unit) }

/-- R113: `MemRead`, as `read_word` and a bus read make it. The word is the oracle's answer to the history before the
read and a fresh choice: a free value. That the choice is the count `draws`, advanced by one, is the model's own
(assumption 4), and so is that a bus record handed in makes the same access (assumption 14). That any lane may be read at
any point of the read phase is INFERRED by the spec (D23 of 92_eei_decisions.md), and that it may be read with no wait is its
choice for an open question (D14; both assumption 11). -/
def Obligations.ReadAccess : Prop :=
  ∀ (a : Nat) (s : State) (op : Instr), ConfigOK s.cfg → (op = .readWord a ∨ op = .busReadLane a) →
    (∀ i, i < s.cfg.n → a = s.cfg.readBase + i * s.cfg.stride → s.inseq.length = s.cfg.n →
      exec op s = .next { s with
        log := s.log ++ [{ seq := s.log.length, kind := .rd, addr := a, data := coreRead s.cfg s.log i s.draws }],
        draws := s.draws + 1,
        response := some (.ok (.word (coreRead s.cfg s.log i s.draws))) }) ∧
    (∀ i, i < s.cfg.n → a = s.cfg.readBase + i * s.cfg.stride → s.inseq.length ≠ s.cfg.n →
      exec op s = .next (raise (.protocolViolation s.inseq.length) s)) ∧
    ((∀ i, i < s.cfg.n → a ≠ s.cfg.readBase + i * s.cfg.stride) →
      exec op s = .next (raise (.unmappedAccess .rd a) s))

/-- R144: `read_lane` of a valid index is `read_word` at the lane's address: it completes in the read phase, and is a
protocol violation before. That a lane may be read in any order is INFERRED by the spec (D23 of 92_eei_decisions.md, assumption 11),
and that it may be read with no wait is its choice for an open question (D14, assumption 11). The count of choices is the
model's own, and so is that `read_lane` and `read_word` give one word where both are given the same choice (assumption 4). -/
def Obligations.ReadLaneReadsTheLane : Prop :=
  ∀ (i : Nat) (s : State), ConfigOK s.cfg → i < s.cfg.n →
    exec (.readLane i) s = exec (.readWord (s.cfg.readBase + i * s.cfg.stride)) s ∧
    (s.inseq.length = s.cfg.n →
      exec (.readLane i) s = .next { s with
        log := s.log ++ [{ seq := s.log.length, kind := .rd, addr := s.cfg.readBase + i * s.cfg.stride,
                           data := coreRead s.cfg s.log i s.draws }],
        draws := s.draws + 1,
        response := some (.ok (.word (coreRead s.cfg s.log i s.draws))) }) ∧
    (s.inseq.length ≠ s.cfg.n →
      exec (.readLane i) s = .next (raise (.protocolViolation s.inseq.length) s))

/-- R55, R112: reading a lane again is a second access, answered by a second draw. That the second draw is the first one's
number advanced by one is the model's own (assumption 4). That repetition is harmless is INFERRED by the spec (D23),
and that no wait is needed is its choice for an open question (D14; both assumption 11). -/
def Obligations.RereadingIsASecondAccess : Prop :=
  ∀ (i : Nat) (s : State), ConfigOK s.cfg → i < s.cfg.n → s.inseq.length = s.cfg.n →
    ∃ t u a b, exec (.readLane i) s = .next t ∧ exec (.readLane i) t = .next u ∧
      u.log = s.log ++ [a, b] ∧ a.kind = .rd ∧ b.kind = .rd ∧ a.addr = b.addr ∧ b.seq = a.seq + 1 ∧
      a.data = coreRead s.cfg s.log i s.draws ∧
      b.data = coreRead s.cfg (s.log ++ [a]) i (s.draws + 1) ∧
      t.response = some (.ok (.word a.data)) ∧ u.response = some (.ok (.word b.data))

/-- R63, R114, R142, R144: an operation that completes extends the history by exactly one entry at the end if it is an
access, and by none otherwise. That `write_sample` and `read_lane` count as the accesses they expand to is assumption 7,
and that bus records handed in do is assumption 14. -/
def Obligations.ExactlyOneEntryPerAccess : Prop :=
  ∀ i s t, exec i s = .next t → (∃ v, t.response = some (.ok v)) →
    (writesLane i → ∃ w, t.log = s.log ++ [{ seq := s.log.length, kind := .wr, addr := s.cfg.writeLaneAddr, data := w }]) ∧
    (readsLane i → ∃ a w, t.log = s.log ++ [{ seq := s.log.length, kind := .rd, addr := a, data := w }] ∧
      t.response = some (.ok (.word w))) ∧
    (writesLane i = false → readsLane i = false → t.log = s.log)

/-- What every operation leaves unchanged (R28, R33, R27, R128): the frame, for all eighteen at once. The fields `inbox` and
`draws` are the model's own, and that operations leave them so is its choice (assumptions 2 and 4). -/
def Obligations.OperationFrame : Prop :=
  ∀ i s t, exec i s = .next t →
    t.cfg = s.cfg ∧ t.inbox = s.inbox ∧ s.log <+: t.log ∧
    (writesLane i = false → t.inseq = s.inseq) ∧
    (readsLane i = false → t.draws = s.draws) ∧
    (writesLane i = false → readsLane i = false → t.log = s.log) ∧
    ((∃ v, t.response = some (.ok v)) → t.fault = s.fault)

/-- R210: every operation completes, with a result or a fault. That a read does not wait is the spec's choice for an open
question (D14 of 92_eei_decisions.md, assumption 11); the response is kept in a field of the model's own (assumption 3). -/
def Obligations.EveryOperationCompletes : Prop :=
  ∀ i s, ∃ t r, exec i s = .next t ∧ t.response = some r

/-! ### Faults -/

/-- R92: each reserved selector takes its fault. -/
def Obligations.ReservedSelectorsTakeIllegalCommand : Prop :=
  ∀ s : State,
    exec .reserved8 s = .next { s with
      fault := stick s.fault (.illegalCommand 0x8#4), response := some (.fault (.illegalCommand 0x8#4)) } ∧
    exec .reserved9 s = .next { s with
      fault := stick s.fault (.illegalCommand 0x9#4), response := some (.fault (.illegalCommand 0x9#4)) } ∧
    exec .reservedA s = .next { s with
      fault := stick s.fault (.illegalCommand 0xA#4), response := some (.fault (.illegalCommand 0xA#4)) } ∧
    exec .reservedB s = .next { s with
      fault := stick s.fault (.illegalCommand 0xB#4), response := some (.fault (.illegalCommand 0xB#4)) } ∧
    exec .reservedC s = .next { s with
      fault := stick s.fault (.illegalCommand 0xC#4), response := some (.fault (.illegalCommand 0xC#4)) } ∧
    exec .reservedD s = .next { s with
      fault := stick s.fault (.illegalCommand 0xD#4), response := some (.fault (.illegalCommand 0xD#4)) } ∧
    exec .reservedE s = .next { s with
      fault := stick s.fault (.illegalCommand 0xE#4), response := some (.fault (.illegalCommand 0xE#4)) } ∧
    exec .reservedF s = .next { s with
      fault := stick s.fault (.illegalCommand 0xF#4), response := some (.fault (.illegalCommand 0xF#4)) }

/-- R173: delivery of a fault, for every operation and every fault. -/
def Obligations.FaultDelivery : Prop :=
  ∀ i s t f, exec i s = .next t → t.response = some (.fault f) →
    t.log = s.log ∧ t.inseq = s.inseq ∧
    t.fault = (match s.fault with | none => some f | some g => some g) ∧
    t = { s with fault := t.fault, response := some (.fault f) }

/-- R29: the sticky record. -/
def Obligations.FaultRecordIsSticky : Prop :=
  State.reset.fault = none ∧
  (∀ i s t f, exec i s = .next t → t.response = some (.fault f) → s.fault = none → t.fault = some f) ∧
  (∀ i s t v, exec i s = .next t → t.response = some (.ok v) → t.fault = s.fault) ∧
  (∀ i s t g, exec i s = .next t → s.fault = some g → t.fault = some g) ∧
  (∀ s t g, step s = .next t → s.fault = some g → t.fault = some g ∨ ∃ rest, s.inbox = .reset :: rest) ∧
  (∀ s rest, ConfigOK s.cfg → s.inbox = .reset :: rest → ∃ t, step s = .next t ∧ t.fault = none)

/-- R168: which operation can raise which fault. -/
def Obligations.FaultCausesByOperation : Prop :=
  ((∀ a v s, FaultsOnly (exec (.writeWord a v) s) [3]) ∧ (∃ a v, CanFault (exec (.writeWord a v)) 3)) ∧
  ((∀ a s, FaultsOnly (exec (.readWord a) s) [3, 4]) ∧
    (∃ a, CanFault (exec (.readWord a)) 3) ∧ (∃ a, CanFault (exec (.readWord a)) 4)) ∧
  ((∀ re im s, FaultsOnly (exec (.encode re im) s) [6]) ∧ (∃ re im, CanFault (exec (.encode re im)) 6)) ∧
  (∀ w s, FaultsOnly (exec (.decodeRaw w) s) []) ∧
  ((∀ w bp s, FaultsOnly (exec (.decodeScaled w bp) s) [2]) ∧ (∃ w bp, CanFault (exec (.decodeScaled w bp)) 2)) ∧
  ((∀ i s, FaultsOnly (exec (.laneAddr i) s) [1]) ∧ (∃ i, CanFault (exec (.laneAddr i)) 1)) ∧
  (∀ w s, FaultsOnly (exec (.writeSample w) s) []) ∧
  ((∀ i s, ConfigOK s.cfg → FaultsOnly (exec (.readLane i) s) [1, 4]) ∧
    (∃ i, CanFault (exec (.readLane i)) 1) ∧ (∃ i, CanFault (exec (.readLane i)) 4)) ∧
  ((∀ re im s, FaultsOnly (pseudoWriteComplex re im s) [6]) ∧ (∃ re im, CanFault (pseudoWriteComplex re im) 6)) ∧
  ((∀ i s, ConfigOK s.cfg → FaultsOnly (pseudoReadRaw i s) [1, 4]) ∧
    (∃ i, CanFault (pseudoReadRaw i) 1) ∧ (∃ i, CanFault (pseudoReadRaw i) 4)) ∧
  ((∀ i s, ConfigOK s.cfg → FaultsOnly (pseudoReadScaled i s) [1, 4]) ∧
    (∃ i, CanFault (pseudoReadScaled i) 1) ∧ (∃ i, CanFault (pseudoReadScaled i) 4)) ∧
  ((∀ ws s, ConfigOK s.cfg → FaultsOnly (pseudoTransact ws s) [4]) ∧ (∃ ws, CanFault (pseudoTransact ws) 4)) ∧
  (∀ d s, (d.extractLsb' 64 4).toNat < 8 → ∀ t op, exec (decode (.cmd68 d)) s = .next t →
    t.response ≠ some (.fault (.illegalCommand op)))

/-- R172: priority, the five clauses. -/
def Obligations.FaultPriority : Prop :=
  (∀ (d : BitVec 68) (s : State), 8 ≤ (d.extractLsb' 64 4).toNat →
    exec (decode (.cmd68 d)) s = .next (raise (.illegalCommand (d.extractLsb' 64 4)) s)) ∧
  (∀ (i : Int) (s : State), i < 0 ∨ (s.cfg.n : Int) ≤ i → s.inseq.length ≠ s.cfg.n →
    exec (.readLane i) s = .next (raise (.invalidIndex i) s) ∧
    pseudoReadRaw i s = .next (raise (.invalidIndex i) s) ∧
    (ConfigOK s.cfg → pseudoReadScaled i s = .next (raise (.invalidIndex i) s))) ∧
  (∀ (a : Nat) (s : State), decodeLane s.cfg .rd a = .unmapped → s.inseq.length ≠ s.cfg.n →
    exec (.readWord a) s = .next (raise (.unmappedAccess .rd a) s)) ∧
  (∀ (re im : Int) (s : State), ¬ IsS16 re → ¬ IsS16 im →
    exec (.encode re im) s = .next (raise (.valueOutOfRange 0 re) s)) ∧
  (∀ (w : Word) (bp : Int) (s : State), bp < 0 ∨ (s.cfg.w : Int) < bp →
    exec (.decodeScaled w bp) s = .next (raise (.invalidConfig bp) s)) ∧
  (∀ i s, ∃ t r, exec i s = .next t ∧ t.response = some r)

/-- R175: after a fault the hardware behaves as if the faulting operation had not been issued, the record apart. Where the
later operation is a read, that both runs give one word is the model's: both have the same history and the same choice
(assumption 4). -/
def Obligations.FaultsDoNotDisturbLaterOperations : Prop :=
  (∀ i j s t f, exec i s = .next t → t.response = some (.fault f) →
    ∃ u v, exec j s = .next u ∧ exec j t = .next v ∧ withoutRecord v = withoutRecord u) ∧
  (∀ j s g, ∃ u v, exec j s = .next u ∧ exec j { s with fault := g } = .next v ∧ withoutRecord v = withoutRecord u) ∧
  (∀ j s t g, exec j s = .next t → s.fault = some g → t.fault = some g)

/-! ### The sequencer, the invariants, the oracle -/

/-- R150, R27, R25: the sequencer as a state machine, row by row. The restart at `pos = N` and the reading of any valid lane
at `pos = N` are INFERRED by the spec (D12 and D23 of 92_eei_decisions.md), and no wait is its choice for an open question
(D14; all assumption 11). That bus records handed in are such writes and reads is assumption 14. -/
def Obligations.SequencerStateMachine : Prop :=
  ∀ s, ConfigOK s.cfg →
    (∀ i, (∃ w, i = .writeSample w ∨ i = .writeWord s.cfg.writeLaneAddr w ∨ i = .busWriteLane s.cfg.writeLaneAddr w) →
      ∃ t, exec i s = .next t ∧ t.response = some (.ok .unit) ∧
        (pos s < s.cfg.n → pos t = pos s + 1) ∧ (pos s = s.cfg.n → pos t = 1)) ∧
    (∀ i, (∃ k : Nat, k < s.cfg.n ∧ (i = .readLane k ∨ i = .readWord (readLaneAddr s.cfg k) ∨
        i = .busReadLane (readLaneAddr s.cfg k))) →
      ∃ t, exec i s = .next t ∧ pos t = pos s ∧
        (pos s < s.cfg.n → t.response = some (.fault (.protocolViolation (pos s)))) ∧
        (pos s = s.cfg.n → ∃ w, t.response = some (.ok (.word w)))) ∧
    (∀ i t, exec i s = .next t → (∃ f, t.response = some (.fault f)) → pos t = pos s) ∧
    (∀ i t, ((∃ re im, i = .encode re im) ∨ (∃ w, i = .decodeRaw w) ∨ (∃ w bp, i = .decodeScaled w bp) ∨
        (∃ k, i = .laneAddr k)) → exec i s = .next t → pos t = pos s)

/-- R30 at reset, for every hardware that can be instantiated. -/
def Obligations.InvariantHoldsAtReset : Prop :=
  Invariants State.reset ∧ ∀ c s, instantiate c = .next s → Invariants s

/-- R30: the invariants are kept by every operation, and by every step, the reset event included. The spec marks R30 as
derived from its other rules, the INFERRED restart among them (D12, assumption 11). -/
def Obligations.InvariantKeptByEveryStep : Prop :=
  (∀ i s t, Invariants s → exec i s = .next t → Invariants t) ∧
  (∀ s t, Invariants s → step s = .next t → Invariants t)

/-- R31: what an operation does never depends on the oracle; only the value returned does. -/
def Obligations.OracleAffectsOnlyTheValueRead : Prop :=
  ∀ i s d, ∃ t u, exec i s = .next t ∧ exec i { s with draws := d } = .next u ∧
    t.inseq = u.inseq ∧ t.fault = u.fault ∧ accessShape t.log = accessShape u.log ∧
    writtenWords t.log = writtenWords u.log ∧
    (t.response = u.response ∨
      ∃ v w, t.response = some (.ok (.word v)) ∧ u.response = some (.ok (.word w)))

/-- R32: where the platform narrows the oracle by `CORE_MODEL`, a lane holds that function's component for the input
sequence just written, however often it is read. That `Config.coreModel` gives one word per lane is the model's deduction
(assumption 4). The claim on values also rests on choices the spec marks toward proving (assumption 11): that a read is
answered right after the last write (D14 of 92_eei_decisions.md, where R203 leaves to the platform to show that its core has
finished), that reading again is harmless (D23) and that a second sequence may follow the first (D12). -/
def Obligations.NarrowedOracleReadsTheModel : Prop :=
  ∀ (i : Nat) (s : State), Invariants s → s.cfg.oracle = .coreModel → i < s.cfg.n → s.inseq.length = s.cfg.n →
    ∃ t u, exec (.readLane i) s = .next t ∧ t.response = some (.ok (.word (Config.coreModel s.inseq i))) ∧
      exec (.readLane i) t = .next u ∧ u.response = t.response

/-- R203: with `HANDSHAKE = none` a read-lane read is enabled as soon as the `N`-th write has been performed. The spec chose
`none` for an open question (D14 of 92_eei_decisions.md), and that any lane may be the first one read is INFERRED (D23; both
assumption 11). -/
def Obligations.ReadsEnabledByTheLastWrite : Prop :=
  ∀ (s : State) (w : Word) (i : Nat), ConfigOK s.cfg → s.inseq.length + 1 = s.cfg.n → i < s.cfg.n →
    ∃ t u v, exec (.writeSample w) s = .next t ∧ exec (.readLane i) t = .next u ∧ u.response = some (.ok (.word v))

/-- R70: the outcomes the caller saw fix the history: two runs of the same operations with the same outcomes, the words
read among them, have the same log, whatever the oracle's choices were. -/
def Obligations.ObservationFixesTheLog : Prop :=
  ∀ (is : List Instr) (s s' t t' : State), s.cfg = s'.cfg → s.inseq = s'.inseq → s.log = s'.log →
    runOps is s = .next t → runOps is s' = .next t' → outcomes is s = outcomes is s' →
    t.log = t'.log ∧ t.inseq = t'.inseq

/-- R148, R29, R173: every list of operations runs to its end from every state (R210); and a run that starts with no fault
recorded has none recorded at its end exactly when every operation returned `Ok`. That no run waits is the spec's choice for
an open question (D14 of 92_eei_decisions.md, assumption 11). -/
def Obligations.NoFaultRecordedIffEveryOperationOk : Prop :=
  (∀ (is : List Instr) (s : State), ∃ t, runOps is s = .next t) ∧
  (∀ (is : List Instr) (s t : State), s.fault = none → runOps is s = .next t → (t.fault = none ↔ AllOk is s))

/-- R64 (with R147, R148): a whole transaction from a transaction boundary, on a history of any length. That a second one
follows a complete one is INFERRED by the spec (D12 of 92_eei_decisions.md), and that no wait stands before the reads is its
choice for an open question (D14; both assumption 11). That the `i`-th read is given the
choice `draws + i` is the model's own (assumption 4). -/
def Obligations.TransactLogsWritesThenReads : Prop :=
  ∀ (s : State) (ws : List Word), ConfigOK s.cfg → (s.inseq.length = 0 ∨ s.inseq.length = s.cfg.n) →
    ws.length = s.cfg.n →
    ∃ t rs, pseudoTransact ws s = .next t ∧ t.response = some (.ok (.words rs)) ∧ rs.length = s.cfg.n ∧
      t.inseq = ws ∧ t.fault = s.fault ∧ t.cfg = s.cfg ∧
      t.log.length = s.log.length + 2 * s.cfg.n ∧ s.log <+: t.log ∧
      (∀ k < s.cfg.n, t.log[s.log.length + k]? = (ws[k]?).map fun w =>
        { seq := s.log.length + k, kind := .wr, addr := s.cfg.writeLaneAddr, data := w }) ∧
      (∀ i < s.cfg.n, t.log[s.log.length + s.cfg.n + i]? = (rs[i]?).map fun r =>
        { seq := s.log.length + s.cfg.n + i, kind := .rd, addr := s.cfg.readBase + i * s.cfg.stride, data := r }) ∧
      (∀ i < s.cfg.n, rs[i]? =
        some (coreRead s.cfg (t.log.take (s.log.length + s.cfg.n + i)) i (s.draws + i))) ∧
      CompleteTransaction s.cfg (t.log.drop s.log.length) ∧
      (s.fault = none → EndsWell t)

/-- R147: a `transact` that does not start on a transaction boundary writes its words and faults at its first read. The
restart in its middle is INFERRED by the spec (D12, assumption 11). -/
def Obligations.TransactOffBoundaryFaults : Prop :=
  ∀ (s : State) (ws : List Word), ConfigOK s.cfg → 0 < s.inseq.length → s.inseq.length < s.cfg.n →
    ws.length = s.cfg.n →
    ∃ t, pseudoTransact ws s = .next t ∧ t.response = some (.fault (.protocolViolation s.inseq.length)) ∧
      t.inseq = lastWords s.inseq.length ws ∧ t.log.length = s.log.length + s.cfg.n ∧
      writtenWords t.log = writtenWords s.log ++ ws

/-- R147: the number of operands is exactly `N`. -/
def Obligations.TransactNeedsExactlyNWords : Prop :=
  ∀ (s : State) (ws : List Word), ws.length ≠ s.cfg.n →
    pseudoTransact ws s = .refused (.transactOperandCount ws.length)

/-- R146: the three other pseudo-operations are their expansions (assumption 8). That a pseudo-operation and its expansion
give one word is the model's: both are given the same choice (assumption 4). -/
def Obligations.PseudoOperationsExpand : Prop :=
  ∀ s, ConfigOK s.cfg →
    (∀ re im, IsS16 re → IsS16 im → ∃ w t, exec (.encode re im) s = .next (respond (.word w) s) ∧
      exec (.writeSample w) s = .next t ∧ pseudoWriteComplex re im s = .next t) ∧
    (∀ re im, ¬ (IsS16 re ∧ IsS16 im) → ∃ t which value, pseudoWriteComplex re im s = .next t ∧
      t.response = some (.fault (.valueOutOfRange which value)) ∧ t.log = s.log) ∧
    (∀ (i : Int) (t : State) (w : Word), exec (.readLane i) s = .next t → t.response = some (.ok (.word w)) →
      pseudoReadRaw i s = exec (.decodeRaw w) t ∧ pseudoReadScaled i s = exec (.decodeScaled w s.cfg.bp) t) ∧
    (∀ (i : Int) (t : State) (f : Fault), exec (.readLane i) s = .next t → t.response = some (.fault f) →
      pseudoReadRaw i s = .next t ∧ pseudoReadScaled i s = .next t)
end

