-- ==== Sys2Proof/Laws/Fields.lean ====
section
/-! SUPPORT. The fields of the three formats: each field of an assembled word is what was put there, and a word is the
assembly of its fields. -/

namespace Sys2Proof

/-! ### Slices of a concatenation -/

/-- The low part of a concatenation. -/
theorem extract_append_low {m n : Nat} (x : BitVec m) (y : BitVec n) : (x ++ y).extractLsb' 0 n = y := by
  ext k hk
  rw [BitVec.getElem_extractLsb', BitVec.getLsbD_append, Nat.zero_add, if_pos hk, BitVec.getLsbD_eq_getElem hk]

/-- A slice that lies in the high part of a concatenation. -/
theorem extract_append_high {m n len from' start : Nat} (x : BitVec m) (y : BitVec n) (h : start = n + from') :
    (x ++ y).extractLsb' start len = x.extractLsb' from' len := by
  subst h
  ext k hk
  rw [BitVec.getElem_extractLsb', BitVec.getElem_extractLsb', BitVec.getLsbD_append, if_neg (by omega)]
  congr 1
  omega

/-- The whole of a word as its own slice. -/
theorem extract_all {n : Nat} (x : BitVec n) : x.extractLsb' 0 n = x := by
  ext k hk
  rw [BitVec.getElem_extractLsb', Nat.zero_add, BitVec.getLsbD_eq_getElem hk]

/-- A word is its high part and its low part. -/
theorem append_extracts {m n : Nat} (x : BitVec (m + n)) : x.extractLsb' n m ++ x.extractLsb' 0 n = x := by
  ext k hk
  rw [BitVec.getElem_append]
  split
  · rw [BitVec.getElem_extractLsb', Nat.zero_add, BitVec.getLsbD_eq_getElem hk]
  · rw [BitVec.getElem_extractLsb', Nat.add_sub_cancel' (by omega), BitVec.getLsbD_eq_getElem hk]

/-- A word is its high part, its middle part and its low part. -/
theorem append_three_extracts {l m n : Nat} (x : BitVec (l + m + n)) :
    x.extractLsb' (n + m) l ++ x.extractLsb' n m ++ x.extractLsb' 0 n = x := by
  ext k hk
  rw [BitVec.getElem_append]
  split
  · rw [BitVec.getElem_extractLsb', Nat.zero_add, BitVec.getLsbD_eq_getElem hk]
  · rw [BitVec.getElem_append]
    split
    · rw [BitVec.getElem_extractLsb', Nat.add_sub_cancel' (by omega), BitVec.getLsbD_eq_getElem hk]
    · rw [BitVec.getElem_extractLsb', show n + m + (k - n - m) = k by omega, BitVec.getLsbD_eq_getElem hk]

/-! ### CMD68 (R86) -/

@[simp] theorem cmdOp_mkCmd (op : BitVec 4) (a b : Word) : cmdOp (mkCmd op a b) = op := by
  unfold cmdOp mkCmd
  rw [extract_append_high (from' := 32) _ _ rfl, extract_append_high (from' := 0) _ _ rfl]
  exact extract_all op

@[simp] theorem cmdArg0_mkCmd (op : BitVec 4) (a b : Word) : cmdArg0 (mkCmd op a b) = a := by
  unfold cmdArg0 mkCmd
  rw [extract_append_high (from' := 0) _ _ rfl]
  exact extract_append_low op a

@[simp] theorem cmdArg1_mkCmd (op : BitVec 4) (a b : Word) : cmdArg1 (mkCmd op a b) = b :=
  extract_append_low (op ++ a) b

@[simp] theorem mkCmd_fields (d : BitVec 68) : mkCmd (cmdOp d) (cmdArg0 d) (cmdArg1 d) = d :=
  append_three_extracts (l := 4) (m := 32) (n := 32) d

/-! ### BUS65 (R90) -/

@[simp] theorem busWe_mkBus (we : Bool) (a w : Word) : busWe (mkBus we a w) = we := by
  unfold busWe mkBus
  rw [BitVec.getLsbD_append, if_neg (by decide), BitVec.getLsbD_append, if_neg (by decide)]
  exact BitVec.getLsbD_ofBool _ _ |>.trans (by simp)

@[simp] theorem busAddr_mkBus (we : Bool) (a w : Word) : busAddr (mkBus we a w) = a := by
  unfold busAddr mkBus
  rw [extract_append_high (from' := 0) _ _ rfl]
  exact extract_append_low _ a

@[simp] theorem busWdata_mkBus (we : Bool) (a w : Word) : busWdata (mkBus we a w) = w :=
  extract_append_low _ w

@[simp] theorem mkBus_fields (b : BitVec 65) : mkBus (busWe b) (busAddr b) (busWdata b) = b := by
  have hw : BitVec.ofBool (b.getLsbD 64) = b.extractLsb' 64 1 := by
    ext k hk
    obtain rfl : k = 0 := by omega
    rw [BitVec.getElem_extractLsb', BitVec.getElem_ofBool]
  unfold mkBus busWe
  rw [hw]
  exact append_three_extracts (l := 1) (m := 32) (n := 32) b

/-! ### Operand fields (R88) -/

theorem signed32_signedField {v : Int} (h : FitsSigned32 v) : signed32 (signedField v) = v := by
  obtain ⟨h1, h2⟩ := h
  unfold signed32 signedField
  simp only [BitVec.toNat_ofNat]
  split <;> split at * <;> omega

@[simp] theorem signedField_signed32 (w : Word) : signedField (signed32 w) = w := by
  apply BitVec.eq_of_toNat_eq
  have := w.isLt
  unfold signed32 signedField
  simp only [BitVec.toNat_ofNat]
  split <;> split <;> omega

theorem toNat_addrField {a : Nat} (h : FitsAddrField a) : (addrField a).toNat = a :=
  Nat.mod_eq_of_lt h

@[simp] theorem addrField_toNat (w : Word) : addrField w.toNat = w := by
  unfold addrField
  simp

namespace Machine

/-! ### WIRE32 (R80, R82, R83) and its components (R13) -/

@[simp] theorem reField_packWord (re im : Int) : reField (packWord re im) = toU16 re := by
  unfold reField packWord
  rw [extract_append_high (from' := 0) _ _ rfl]
  exact extract_all _

@[simp] theorem imField_packWord (re im : Int) : imField (packWord re im) = toU16 im :=
  extract_append_low _ _

theorem fields_append (w : Word) : (reField w ++ imField w : BitVec 32) = w := by
  exact append_extracts (m := 16) (n := 16) w

theorem toNat_toU16 {c : Int} (h : IsS16 c) : ((toU16 c).toNat : Int) = if 0 ≤ c then c else c + 65536 := by
  obtain ⟨h1, h2⟩ := h
  unfold toU16
  simp only [BitVec.toNat_ofNat]
  split <;> omega

theorem toS16_toU16 {c : Int} (h : IsS16 c) : toS16 (toU16 c) = c := by
  have hp := toNat_toU16 h
  obtain ⟨h1, h2⟩ := h
  unfold toS16
  split at hp <;> split <;> omega

theorem isS16_toS16 (p : Half) : IsS16 (toS16 p) := by
  have := p.isLt
  unfold toS16
  constructor <;> split <;> omega

@[simp] theorem toU16_toS16 (p : Half) : toU16 (toS16 p) = p := by
  apply BitVec.eq_of_toNat_eq
  have hp := toNat_toU16 (isS16_toS16 p)
  have := p.isLt
  generalize hq : toS16 p = q at hp ⊢
  unfold toS16 at hq
  split at hq <;> split at hp <;> omega

theorem toS16_eq_toInt (p : Half) : toS16 p = p.toInt := by
  unfold toS16
  rw [BitVec.toInt_eq_toNat_cond]
  split <;> split <;> omega

end Machine

end Sys2Proof
end

