-- ==== Sys2Proof/Laws/State.lean ====
section
/-! SUPPORT. One lemma per field of State per shared update, so that no proof unfolds a record update. -/

namespace Sys2Proof.Machine

@[simp] theorem respond_cfg (v : Value) (s : State) : (respond v s).cfg = s.cfg := rfl
@[simp] theorem respond_inseq (v : Value) (s : State) : (respond v s).inseq = s.inseq := rfl
@[simp] theorem respond_log (v : Value) (s : State) : (respond v s).log = s.log := rfl
@[simp] theorem respond_fault (v : Value) (s : State) : (respond v s).fault = s.fault := rfl
@[simp] theorem respond_response (v : Value) (s : State) : (respond v s).response = some (.ok v) := rfl
@[simp] theorem respond_inbox (v : Value) (s : State) : (respond v s).inbox = s.inbox := rfl
@[simp] theorem respond_draws (v : Value) (s : State) : (respond v s).draws = s.draws := rfl

@[simp] theorem raise_cfg (f : Fault) (s : State) : (raise f s).cfg = s.cfg := rfl
@[simp] theorem raise_inseq (f : Fault) (s : State) : (raise f s).inseq = s.inseq := rfl
@[simp] theorem raise_log (f : Fault) (s : State) : (raise f s).log = s.log := rfl
@[simp] theorem raise_fault (f : Fault) (s : State) : (raise f s).fault = stick s.fault f := rfl
@[simp] theorem raise_response (f : Fault) (s : State) : (raise f s).response = some (.fault f) := rfl
@[simp] theorem raise_inbox (f : Fault) (s : State) : (raise f s).inbox = s.inbox := rfl
@[simp] theorem raise_draws (f : Fault) (s : State) : (raise f s).draws = s.draws := rfl

@[simp] theorem appendAccess_cfg (k : AccessKind) (a : Nat) (d : Word) (s : State) : (appendAccess k a d s).cfg = s.cfg := rfl
@[simp] theorem appendAccess_inseq (k : AccessKind) (a : Nat) (d : Word) (s : State) : (appendAccess k a d s).inseq = s.inseq := rfl
@[simp] theorem appendAccess_log (k : AccessKind) (a : Nat) (d : Word) (s : State) : (appendAccess k a d s).log = s.log ++ [⟨s.log.length, k, a, d⟩] := rfl
@[simp] theorem appendAccess_fault (k : AccessKind) (a : Nat) (d : Word) (s : State) : (appendAccess k a d s).fault = s.fault := rfl
@[simp] theorem appendAccess_response (k : AccessKind) (a : Nat) (d : Word) (s : State) : (appendAccess k a d s).response = s.response := rfl
@[simp] theorem appendAccess_inbox (k : AccessKind) (a : Nat) (d : Word) (s : State) : (appendAccess k a d s).inbox = s.inbox := rfl
@[simp] theorem appendAccess_draws (k : AccessKind) (a : Nat) (d : Word) (s : State) : (appendAccess k a d s).draws = s.draws := rfl

@[simp] theorem drawChoice_cfg (s : State) : (drawChoice s).cfg = s.cfg := rfl
@[simp] theorem drawChoice_inseq (s : State) : (drawChoice s).inseq = s.inseq := rfl
@[simp] theorem drawChoice_log (s : State) : (drawChoice s).log = s.log := rfl
@[simp] theorem drawChoice_fault (s : State) : (drawChoice s).fault = s.fault := rfl
@[simp] theorem drawChoice_response (s : State) : (drawChoice s).response = s.response := rfl
@[simp] theorem drawChoice_inbox (s : State) : (drawChoice s).inbox = s.inbox := rfl
@[simp] theorem drawChoice_draws (s : State) : (drawChoice s).draws = s.draws + 1 := rfl

@[simp] theorem resetEvent_cfg (s : State) : (resetEvent s).cfg = s.cfg := rfl
@[simp] theorem resetEvent_inseq (s : State) : (resetEvent s).inseq = [] := rfl
@[simp] theorem resetEvent_log (s : State) : (resetEvent s).log = [] := rfl
@[simp] theorem resetEvent_fault (s : State) : (resetEvent s).fault = none := rfl
@[simp] theorem resetEvent_response (s : State) : (resetEvent s).response = none := rfl
@[simp] theorem resetEvent_inbox (s : State) : (resetEvent s).inbox = s.inbox := rfl
@[simp] theorem resetEvent_draws (s : State) : (resetEvent s).draws = s.draws := rfl

@[simp] theorem offer_cfg (r : Request) (s : State) : (offer r s).cfg = s.cfg := rfl
@[simp] theorem offer_inseq (r : Request) (s : State) : (offer r s).inseq = s.inseq := rfl
@[simp] theorem offer_log (r : Request) (s : State) : (offer r s).log = s.log := rfl
@[simp] theorem offer_fault (r : Request) (s : State) : (offer r s).fault = s.fault := rfl
@[simp] theorem offer_response (r : Request) (s : State) : (offer r s).response = s.response := rfl
@[simp] theorem offer_inbox (r : Request) (s : State) : (offer r s).inbox = r :: s.inbox := rfl
@[simp] theorem offer_draws (r : Request) (s : State) : (offer r s).draws = s.draws := rfl

@[simp] theorem pushSample_cfg (v : Word) (s : State) : (pushSample v s).cfg = s.cfg := rfl
@[simp] theorem pushSample_inseq (v : Word) (s : State) : (pushSample v s).inseq = nextSequence s.cfg.n s.inseq v := rfl
@[simp] theorem pushSample_log (v : Word) (s : State) : (pushSample v s).log = s.log := rfl
@[simp] theorem pushSample_fault (v : Word) (s : State) : (pushSample v s).fault = s.fault := rfl
@[simp] theorem pushSample_response (v : Word) (s : State) : (pushSample v s).response = s.response := rfl
@[simp] theorem pushSample_inbox (v : Word) (s : State) : (pushSample v s).inbox = s.inbox := rfl
@[simp] theorem pushSample_draws (v : Word) (s : State) : (pushSample v s).draws = s.draws := rfl

/-- The rule of R25, clause by clause. -/
theorem nextSequence_of_complete {n : Nat} {seq : List Word} (h : seq.length = n) (v : Word) :
    nextSequence n seq v = [v] := if_pos h

theorem nextSequence_of_incomplete {n : Nat} {seq : List Word} (h : seq.length ≠ n) (v : Word) :
    nextSequence n seq v = seq ++ [v] := if_neg h

@[simp] theorem withoutRecord_cfg (s : State) : (Safety.withoutRecord s).cfg = s.cfg := rfl
@[simp] theorem withoutRecord_inseq (s : State) : (Safety.withoutRecord s).inseq = s.inseq := rfl
@[simp] theorem withoutRecord_log (s : State) : (Safety.withoutRecord s).log = s.log := rfl
@[simp] theorem withoutRecord_fault (s : State) : (Safety.withoutRecord s).fault = none := rfl
@[simp] theorem withoutRecord_response (s : State) : (Safety.withoutRecord s).response = s.response := rfl
@[simp] theorem withoutRecord_inbox (s : State) : (Safety.withoutRecord s).inbox = s.inbox := rfl
@[simp] theorem withoutRecord_draws (s : State) : (Safety.withoutRecord s).draws = s.draws := rfl

/-- The sticky rule keeps the first fault (R29). -/
@[simp] theorem stick_none (f : Fault) : stick none f = some f := rfl
@[simp] theorem stick_some (g f : Fault) : stick (some g) f = some g := rfl

end Sys2Proof.Machine
end

