-- ==== Sys2Proof/Laws/Ops.lean ====
section
/-! SUPPORT. What each shared operation can do, said once: the address decode, the two access primitives, delivery,
and the one inversion lemma of `exec`. -/

namespace Sys2Proof.Machine

/-! ### Address decode (R57) -/

theorem decodeLane_wr (c : Cfg) (addr : Nat) :
    decodeLane c .wr addr = if addr = c.writeLaneAddr then .wl else .unmapped := rfl

@[simp] theorem decodeLane_wr_writeLane (c : Cfg) : decodeLane c .wr c.writeLaneAddr = .wl := by
  simp [decodeLane]

theorem decodeLane_rd_eq_rl_iff {c : Cfg} (hc : 0 < c.stride) (addr : Nat) (i : Nat) :
    decodeLane c .rd addr = .rl i ↔ i < c.n ∧ addr = readLaneAddr c i := by
  simp only [decodeLane, readLaneAddr]
  constructor
  · intro h
    split at h
    · next hd =>
      obtain ⟨hle, hmod, hlt⟩ := hd
      obtain rfl : (addr - c.readBase) / c.stride = i := by simpa using h
      refine ⟨hlt, ?_⟩
      rw [Nat.div_mul_cancel (Nat.dvd_of_mod_eq_zero hmod), Nat.add_sub_cancel' hle]
    · simp at h
  · rintro ⟨hi, rfl⟩
    rw [Nat.add_sub_cancel_left, Nat.mul_mod_left, Nat.mul_div_cancel i hc]
    simp [hi]

theorem decodeLane_rd_ne_wl (c : Cfg) (addr : Nat) : decodeLane c .rd addr ≠ .wl := by
  simp only [decodeLane]
  split <;> simp

theorem decodeLane_readLane {c : Cfg} (hc : 0 < c.stride) {i : Nat} (hi : i < c.n) :
    decodeLane c .rd (readLaneAddr c i) = .rl i :=
  (decodeLane_rd_eq_rl_iff hc _ _).2 ⟨hi, rfl⟩

/-- A read reaches no lane exactly when its address is no read lane's (R58). -/
theorem decodeLane_rd_unmapped_iff {c : Cfg} (hc : 0 < c.stride) (addr : Nat) :
    decodeLane c .rd addr = .unmapped ↔ ∀ i < c.n, addr ≠ readLaneAddr c i := by
  constructor
  · rintro h i hi rfl
    simp [decodeLane_readLane hc hi] at h
  · intro h
    cases hd : decodeLane c .rd addr with
    | wl => exact absurd hd (decodeLane_rd_ne_wl c addr)
    | rl i => exact absurd ((decodeLane_rd_eq_rl_iff hc _ _).1 hd).2 (h i ((decodeLane_rd_eq_rl_iff hc _ _).1 hd).1)
    | unmapped => rfl

/-! ### The access primitives (R111, R113) -/

/-- Everything `MemWrite` can do (R111). -/
theorem memWrite_eq (addr : Nat) (v : Word) (s : State) :
    memWrite addr v s =
      if addr = s.cfg.writeLaneAddr then .ok (.unit, pushSample v (appendAccess .wr addr v s))
      else .error (.unmappedAccess .wr addr) := by
  unfold memWrite
  rw [decodeLane_wr]
  by_cases h : addr = s.cfg.writeLaneAddr <;> simp [h]

/-- The state a read of lane `i` leaves, and the word it returns (R113). -/
theorem memRead_of_rl {addr : Nat} {s : State} {i : Nat} (h : decodeLane s.cfg .rd addr = .rl i)
    (hp : s.inseq.length = s.cfg.n) :
    memRead addr s = .ok (.word (coreRead s.cfg s.log i s.draws),
      drawChoice (appendAccess .rd addr (coreRead s.cfg s.log i s.draws) s)) := by
  unfold memRead
  rw [h]
  simp [Complete, pos, hp]

/-- A read before the sequence is complete (R164). -/
theorem memRead_of_incomplete {addr : Nat} {s : State} {i : Nat} (h : decodeLane s.cfg .rd addr = .rl i)
    (hp : s.inseq.length ≠ s.cfg.n) : memRead addr s = .error (.protocolViolation s.inseq.length) := by
  unfold memRead
  rw [h]
  simp [Complete, pos, hp]

/-- A read off the map (R163). -/
theorem memRead_of_unmapped {addr : Nat} {s : State} (h : decodeLane s.cfg .rd addr = .unmapped) :
    memRead addr s = .error (.unmappedAccess .rd addr) := by
  unfold memRead
  rw [h]

/-- The index check (R140, R141) on an index in range. -/
theorem laneAddress_ok {c : Cfg} {i : Nat} (h : i < c.n) : laneAddress c i = .ok (readLaneAddr c i) := by
  unfold laneAddress
  rw [if_neg (by omega)]
  simp

/-- The index check on an index out of range. -/
theorem laneAddress_error {c : Cfg} {i : Int} (h : i < 0 ∨ (c.n : Int) ≤ i) :
    laneAddress c i = .error (.invalidIndex i) := if_pos h

/-! ### What an attempt can be -/

/-- What an operation can compute (R7, R173): it faults; or it leaves the state as it is; or it makes one write of the
write lane; or one read of a lane in the read phase. -/
inductive AttemptShape (s : State) : Attempt → Prop where
  | fault (f : Fault) : AttemptShape s (.error f)
  | pure (v : Value) : AttemptShape s (.ok (v, s))
  | write (w : Word) :
      AttemptShape s (.ok (.unit, pushSample w (appendAccess .wr s.cfg.writeLaneAddr w s)))
  | read (addr : Nat) (i : Nat) (hd : decodeLane s.cfg .rd addr = .rl i) (hp : s.inseq.length = s.cfg.n) :
      AttemptShape s (.ok (.word (coreRead s.cfg s.log i s.draws),
        drawChoice (appendAccess .rd addr (coreRead s.cfg s.log i s.draws) s)))

theorem memWrite_shape (addr : Nat) (v : Word) (s : State) : AttemptShape s (memWrite addr v s) := by
  rw [memWrite_eq]
  split
  · next h => subst h; exact .write v
  · exact .fault _

theorem memRead_shape (addr : Nat) (s : State) : AttemptShape s (memRead addr s) := by
  cases hd : decodeLane s.cfg .rd addr with
  | wl => exact absurd hd (decodeLane_rd_ne_wl _ _)
  | unmapped => rw [memRead_of_unmapped hd]; exact .fault _
  | rl i =>
    by_cases hp : s.inseq.length = s.cfg.n
    · rw [memRead_of_rl hd hp]; exact .read addr i hd hp
    · rw [memRead_of_incomplete hd hp]; exact .fault _

/-- The inversion lemma of `exec`: every operation is the delivery of one attempt of a known shape. -/
theorem exec_eq_deliver (i : Instr) (s : State) : ∃ a, exec i s = deliver s a ∧ AttemptShape s a := by
  cases i with
  | writeWord addr value => exact ⟨_, rfl, memWrite_shape _ _ _⟩
  | readWord addr => exact ⟨_, rfl, memRead_shape _ _⟩
  | encode re im =>
    refine ⟨_, rfl, ?_⟩
    cases encodeSample re im with
    | error f => exact .fault f
    | ok w => exact .pure _
  | decodeRaw word => exact ⟨_, rfl, .pure _⟩
  | decodeScaled word bp =>
    refine ⟨_, rfl, ?_⟩
    cases radixFault s.cfg bp with
    | some f => exact .fault f
    | none => exact .pure _
  | laneAddr i =>
    refine ⟨_, rfl, ?_⟩
    cases laneAddress s.cfg i with
    | error f => exact .fault f
    | ok a => exact .pure _
  | writeSample word => exact ⟨_, rfl, memWrite_shape _ _ _⟩
  | readLane i =>
    refine ⟨_, rfl, ?_⟩
    cases laneAddress s.cfg i with
    | error f => exact .fault f
    | ok a => exact memRead_shape a s
  | reserved8 => exact ⟨_, rfl, .fault _⟩
  | reserved9 => exact ⟨_, rfl, .fault _⟩
  | reservedA => exact ⟨_, rfl, .fault _⟩
  | reservedB => exact ⟨_, rfl, .fault _⟩
  | reservedC => exact ⟨_, rfl, .fault _⟩
  | reservedD => exact ⟨_, rfl, .fault _⟩
  | reservedE => exact ⟨_, rfl, .fault _⟩
  | reservedF => exact ⟨_, rfl, .fault _⟩
  | busWriteLane addr wdata => exact ⟨_, rfl, memWrite_shape _ _ _⟩
  | busReadLane addr => exact ⟨_, rfl, memRead_shape _ _⟩

/-- Everything a next state of `exec` can be. -/
theorem exec_cases {i : Instr} {s t : State} (h : exec i s = .next t) :
    (∃ f, t = raise f s) ∨ (∃ v, t = respond v s) ∨
    (∃ w, t = respond .unit (pushSample w (appendAccess .wr s.cfg.writeLaneAddr w s))) ∨
    (∃ addr k, decodeLane s.cfg .rd addr = .rl k ∧ s.inseq.length = s.cfg.n ∧
      t = respond (.word (coreRead s.cfg s.log k s.draws))
        (drawChoice (appendAccess .rd addr (coreRead s.cfg s.log k s.draws) s))) := by
  obtain ⟨a, ha, hs⟩ := exec_eq_deliver i s
  rw [ha] at h
  cases hs with
  | fault f => exact .inl ⟨f, by simpa [deliver] using h.symm⟩
  | pure v => exact .inr (.inl ⟨v, by simpa [deliver] using h.symm⟩)
  | write w => exact .inr (.inr (.inl ⟨w, by simpa [deliver] using h.symm⟩))
  | read addr k hd hp => exact .inr (.inr (.inr ⟨addr, k, hd, hp, by simpa [deliver] using h.symm⟩))

/-- `step` serves the head of the inbox, or idles, or refuses (R7, R11). -/
theorem step_of_op {s : State} {i : Instr} {rest : List Request} (hc : ConfigOK s.cfg) (h : s.inbox = .op i :: rest) :
    step s = exec i { s with inbox := rest } := by
  simp only [step, fetch, if_pos hc, h, serve]

theorem step_of_form {s : State} {e : Encoded} {rest : List Request} (hc : ConfigOK s.cfg) (hw : s.cfg.addrW ≤ 32)
    (h : s.inbox = .form e :: rest) : step s = exec (decode e) { s with inbox := rest } := by
  simp only [step, fetch, if_pos hc, h, serve, if_pos hw]

theorem step_of_reset {s : State} {rest : List Request} (hc : ConfigOK s.cfg) (h : s.inbox = .reset :: rest) :
    step s = .next (resetEvent { s with inbox := rest }) := by
  simp only [step, fetch, if_pos hc, h, serve]

theorem step_of_idle {s : State} (hc : ConfigOK s.cfg) (h : s.inbox = []) : step s = .next s := by
  simp only [step, fetch, if_pos hc, h]

/-- Everything a next state of `step` can be. -/
theorem step_cases {s t : State} (h : step s = .next t) :
    ConfigOK s.cfg ∧
    ((s.inbox = [] ∧ t = s) ∨
     (∃ rest, s.inbox = .reset :: rest ∧ t = resetEvent { s with inbox := rest }) ∨
     (∃ r rest i, s.inbox = r :: rest ∧ (r = .op i ∨ ∃ e, r = .form e ∧ i = decode e) ∧
       exec i { s with inbox := rest } = .next t)) := by
  by_cases hc : ConfigOK s.cfg
  · refine ⟨hc, ?_⟩
    cases hb : s.inbox with
    | nil => rw [step_of_idle hc hb] at h; exact .inl ⟨rfl, by simpa using h.symm⟩
    | cons r rest =>
      cases r with
      | op i => rw [step_of_op hc hb] at h; exact .inr (.inr ⟨_, rest, i, rfl, .inl rfl, h⟩)
      | reset => rw [step_of_reset hc hb] at h; exact .inr (.inl ⟨rest, rfl, by simpa using h.symm⟩)
      | form e =>
        by_cases hw : s.cfg.addrW ≤ 32
        · rw [step_of_form hc hw hb] at h
          exact .inr (.inr ⟨_, rest, decode e, rfl, .inr ⟨e, rfl, rfl⟩, h⟩)
        · simp [step, fetch, if_pos hc, hb, serve, if_neg hw] at h
  · simp only [step, fetch, if_neg hc] at h
    cases h

/-! ### The history (R28) -/

@[simp] theorem writtenWords_nil : writtenWords [] = [] := rfl

@[simp] theorem writtenWords_append (l l' : List Access) :
    writtenWords (l ++ l') = writtenWords l ++ writtenWords l' := by
  simp [writtenWords]

@[simp] theorem writtenWords_wr (k : Nat) (a : Nat) (d : Word) : writtenWords [⟨k, .wr, a, d⟩] = [d] := rfl

@[simp] theorem writtenWords_rd (k : Nat) (a : Nat) (d : Word) : writtenWords [⟨k, .rd, a, d⟩] = [] := rfl

end Sys2Proof.Machine
end

