-- ==== Sys2Proof/Laws/PerInstr.lean ====
section
/-! SUPPORT. Per instruction: the family `Selector`. The canonical form of an operation matches its own row of
spec/opcode_table.json under the row's mask. -/

namespace Sys2Proof.Laws

/-- The operation's form is a descriptor that matches `row` under the mask of a CMD68 row (R87). -/
def MatchesCommandRow (i : Instr) (row : BitVec 68) : Prop :=
  ∃ d, encode i = .cmd68 d ∧ d &&& 0xF0000000000000000#68 = row

/-- The operation's form is a record that matches `row` under the mask of a BUS65 row (R90). -/
def MatchesRecordRow (i : Instr) (row : BitVec 65) : Prop :=
  ∃ b, encode i = .bus65 b ∧ b &&& 0x10000000000000000#65 = row

/-- Masking a descriptor leaves its selector. -/
theorem mkCmd_masked (op : BitVec 4) (a b : Word) :
    mkCmd op a b &&& 0xF0000000000000000#68 = mkCmd op 0#32 0#32 := by
  rw [show (0xF0000000000000000#68) = mkCmd 0xF#4 0#32 0#32 by decide]
  unfold mkCmd
  rw [BitVec.and_append, BitVec.and_append, BitVec.and_zero, BitVec.and_zero,
    show (0xF#4) = BitVec.allOnes 4 by decide, BitVec.and_allOnes]

/-- Masking a record leaves its `we` bit. -/
theorem mkBus_masked (we : Bool) (a w : Word) :
    mkBus we a w &&& 0x10000000000000000#65 = mkBus we 0#32 0#32 := by
  rw [show (0x10000000000000000#65) = mkBus true 0#32 0#32 by decide]
  unfold mkBus
  rw [BitVec.and_append, BitVec.and_append, BitVec.and_zero, BitVec.and_zero]
  cases we <;> rfl

namespace Selector

/-- Each operation against the `match` of its row. -/
def Statement : Instr → Prop
  | .writeWord addr value    => MatchesCommandRow (.writeWord addr value) 0x00000000000000000#68
  | .readWord addr           => MatchesCommandRow (.readWord addr) 0x10000000000000000#68
  | .encode re im            => MatchesCommandRow (.encode re im) 0x20000000000000000#68
  | .decodeRaw word          => MatchesCommandRow (.decodeRaw word) 0x30000000000000000#68
  | .decodeScaled word bp    => MatchesCommandRow (.decodeScaled word bp) 0x40000000000000000#68
  | .laneAddr i              => MatchesCommandRow (.laneAddr i) 0x50000000000000000#68
  | .writeSample word        => MatchesCommandRow (.writeSample word) 0x60000000000000000#68
  | .readLane i              => MatchesCommandRow (.readLane i) 0x70000000000000000#68
  | .reserved8               => MatchesCommandRow .reserved8 0x80000000000000000#68
  | .reserved9               => MatchesCommandRow .reserved9 0x90000000000000000#68
  | .reservedA               => MatchesCommandRow .reservedA 0xA0000000000000000#68
  | .reservedB               => MatchesCommandRow .reservedB 0xB0000000000000000#68
  | .reservedC               => MatchesCommandRow .reservedC 0xC0000000000000000#68
  | .reservedD               => MatchesCommandRow .reservedD 0xD0000000000000000#68
  | .reservedE               => MatchesCommandRow .reservedE 0xE0000000000000000#68
  | .reservedF               => MatchesCommandRow .reservedF 0xF0000000000000000#68
  | .busWriteLane addr wdata => MatchesRecordRow (.busWriteLane addr wdata) 0x10000000000000000#65
  | .busReadLane addr        => MatchesRecordRow (.busReadLane addr) 0x00000000000000000#65

theorem writeWord (addr : Nat) (value : Word) : Statement (.writeWord addr value) :=
  ⟨_, rfl, (mkCmd_masked _ _ _).trans (by decide)⟩
theorem readWord (addr : Nat) : Statement (.readWord addr) := ⟨_, rfl, (mkCmd_masked _ _ _).trans (by decide)⟩
theorem encode (re im : Int) : Statement (.encode re im) := ⟨_, rfl, (mkCmd_masked _ _ _).trans (by decide)⟩
theorem decodeRaw (word : Word) : Statement (.decodeRaw word) := ⟨_, rfl, (mkCmd_masked _ _ _).trans (by decide)⟩
theorem decodeScaled (word : Word) (bp : Int) : Statement (.decodeScaled word bp) :=
  ⟨_, rfl, (mkCmd_masked _ _ _).trans (by decide)⟩
theorem laneAddr (i : Int) : Statement (.laneAddr i) := ⟨_, rfl, (mkCmd_masked _ _ _).trans (by decide)⟩
theorem writeSample (word : Word) : Statement (.writeSample word) := ⟨_, rfl, (mkCmd_masked _ _ _).trans (by decide)⟩
theorem readLane (i : Int) : Statement (.readLane i) := ⟨_, rfl, (mkCmd_masked _ _ _).trans (by decide)⟩
theorem reserved8 : Statement .reserved8 := ⟨_, rfl, by decide⟩
theorem reserved9 : Statement .reserved9 := ⟨_, rfl, by decide⟩
theorem reservedA : Statement .reservedA := ⟨_, rfl, by decide⟩
theorem reservedB : Statement .reservedB := ⟨_, rfl, by decide⟩
theorem reservedC : Statement .reservedC := ⟨_, rfl, by decide⟩
theorem reservedD : Statement .reservedD := ⟨_, rfl, by decide⟩
theorem reservedE : Statement .reservedE := ⟨_, rfl, by decide⟩
theorem reservedF : Statement .reservedF := ⟨_, rfl, by decide⟩
theorem busWriteLane (addr : Nat) (wdata : Word) : Statement (.busWriteLane addr wdata) :=
  ⟨_, rfl, (mkBus_masked _ _ _).trans (by decide)⟩
theorem busReadLane (addr : Nat) : Statement (.busReadLane addr) := ⟨_, rfl, (mkBus_masked _ _ _).trans (by decide)⟩

end Selector

end Sys2Proof.Laws
end

