-- ==== Sys2Proof/Tests/Slice0.lean ====
section
/-! SUPPORT. The model's own tests, each with its source in spec/, and for every statement that has hypotheses a
concrete state and operands that meet them all (`witness_...`). -/

namespace Sys2Proof.Tests

open Sys2Proof.Machine Sys2Proof.Safety

/-! ### Well-formedness: one ill-formed term for each check, and configurations -/

theorem test_wf_writeWord : ¬ (Instr.writeWord 0x100000000 0#32).WellFormed := by decide
theorem test_wf_readWord : ¬ (Instr.readWord 0x100000000).WellFormed := by decide
theorem test_wf_encode_re : ¬ (Instr.encode 0x80000000 0).WellFormed := by decide
theorem test_wf_encode_im : ¬ (Instr.encode 0 (-0x80000001)).WellFormed := by decide
theorem test_wf_decodeScaled : ¬ (Instr.decodeScaled 0#32 0x80000000).WellFormed := by decide
theorem test_wf_laneAddr : ¬ (Instr.laneAddr (-0x80000001)).WellFormed := by decide
theorem test_wf_readLane : ¬ (Instr.readLane 0x80000000).WellFormed := by decide
theorem test_wf_busWriteLane : ¬ (Instr.busWriteLane 0x100000000 0#32).WellFormed := by decide
theorem test_wf_busReadLane : ¬ (Instr.busReadLane 0x100000000).WellFormed := by decide
theorem test_wf_edges : (Instr.encode (-0x80000000) 0x7FFFFFFF).WellFormed ∧ (Instr.readWord 0xFFFFFFFF).WellFormed := by
  decide

theorem test_config_ex : ConfigOK cfgEx := by decide +kernel
theorem test_config_n4 : ConfigOK cfgN4 := by decide +kernel
theorem test_config_n : ¬ ConfigOK { cfgEx with n := 0 } := by decide +kernel
theorem test_config_w : ¬ ConfigOK { cfgEx with w := 8 } := by decide +kernel
theorem test_config_wordW : ¬ ConfigOK { cfgEx with wordW := 64 } := by decide +kernel
theorem test_config_bp : ¬ ConfigOK { cfgEx with bp := 17 } ∧ ¬ ConfigOK { cfgEx with bp := -1 } := by decide +kernel
theorem test_config_sign : ¬ ConfigOK { cfgEx with scaleSign := 0 } := by decide +kernel
theorem test_config_stride : ¬ ConfigOK { cfgEx with stride := 0 } ∧ ¬ ConfigOK { cfgEx with stride := 6 } := by
  decide +kernel
theorem test_config_align : ¬ ConfigOK { cfgEx with readBase := 0x200A } ∧ ¬ ConfigOK { cfgEx with writeLaneAddr := 0x2001 } := by
  decide +kernel
theorem test_config_wrap : ¬ ConfigOK { cfgEx with addrW := 13 } := by decide +kernel
theorem test_config_overlap : ¬ ConfigOK { cfgEx with writeLaneAddr := 0x2010 } := by decide +kernel

/-! ### Decoding: a word for every constructor (30_encoding.md R86, R87, R90; 95_test_vectors.md Table C) -/

theorem test_decode_writeWord : decode (.cmd68 0x0_00002000_00010000#68) = .writeWord 0x2000 0x00010000#32 := by decide
theorem test_decode_readWord : decode (.cmd68 0x1_00002020_DEADBEEF#68) = .readWord 0x2020 := by decide
theorem test_decode_encode : decode (.cmd68 0x2_FFFFFF4B_FFFFEDCC#68) = .encode (-181) (-4660) := by decide
theorem test_decode_decodeRaw : decode (.cmd68 0x3_FF4BFF4B_00000000#68) = .decodeRaw 0xFF4BFF4B#32 := by decide
theorem test_decode_decodeScaled : decode (.cmd68 0x4_00000001_FFFFFFFF#68) = .decodeScaled 1#32 (-1) := by decide
theorem test_decode_laneAddr : decode (.cmd68 0x5_80000000_00000000#68) = .laneAddr (-2147483648) := by decide
theorem test_decode_writeSample : decode (.cmd68 0x6_00010000_00000000#68) = .writeSample 0x00010000#32 := by decide
theorem test_decode_readLane : decode (.cmd68 0x7_FFFFFFFF_00000000#68) = .readLane (-1) := by decide
theorem test_decode_reserved8 : decode (.cmd68 0x8_00000000_00000000#68) = .reserved8 := by decide
theorem test_decode_reserved9 : decode (.cmd68 0x9_00000000_00000000#68) = .reserved9 := by decide
theorem test_decode_reservedA : decode (.cmd68 0xA_00000000_00000000#68) = .reservedA := by decide
theorem test_decode_reservedB : decode (.cmd68 0xB_00000001_00000000#68) = .reservedB := by decide
theorem test_decode_reservedC : decode (.cmd68 0xC_00000000_00000000#68) = .reservedC := by decide
theorem test_decode_reservedD : decode (.cmd68 0xD_00000000_00000001#68) = .reservedD := by decide
theorem test_decode_reservedE : decode (.cmd68 0xE_00000000_00000000#68) = .reservedE := by decide
theorem test_decode_reservedF : decode (.cmd68 0xF_FFFFFFFF_FFFFFFFF#68) = .reservedF := by decide
theorem test_decode_busWriteLane : decode (.bus65 0x1_00002000_00010000#65) = .busWriteLane 0x2000 0x00010000#32 := by
  decide
theorem test_decode_busReadLane : decode (.bus65 0x0_00002040_FFFFFFFF#65) = .busReadLane 0x2040 := by decide

/-- The same in bits: `op` 0101, `arg0` 3, from R86 and R87. -/
theorem test_decode_laneAddr_bits : decode (.cmd68
    (0b0101_00000000000000000000000000000011_00000000000000000000000000000000#68)) = .laneAddr 3 := by decide

/-- R89: the ignored field is zero in the canonical form. -/
theorem test_canonical : encode (decode (.cmd68 0x1_00002020_DEADBEEF#68)) = .cmd68 0x1_00002020_00000000#68 := by decide

/-- R93: no other lengths; assumption 5. -/
theorem test_tableWord_cmd : decodeTableWord 72 0x50000000300000000 = some (.laneAddr 3) := by decide
theorem test_tableWord_bus : decodeTableWord 65 0x10000200000010000 = some (.busWriteLane 0x2000 0x00010000#32) := by decide
theorem test_tableWord_refused : layOut 64 0 = .error (.badLength 64) ∧ layOut 72 (2 ^ 68) = .error (.bitsAboveForm 72 (2 ^ 68)) := by
  decide +kernel

/-! ### States of the tests: `CFG_N4` and `CFG_EX` (R10) with so many words collected -/

/-- `CFG_N4` with `k` words collected and logged. -/
def n4 (k : Nat) : State :=
  { State.reset with
    cfg := cfgN4
    inseq := List.replicate k 0x00010000#32
    log := (List.range k).map fun j => { seq := j, kind := .wr, addr := 0x2000, data := 0x00010000#32 } }

/-- Hardware with one lane and `CORE_MODEL`, its one word collected. -/
def n1 : State :=
  { State.reset with
    cfg := { cfgEx with n := 1, oracle := .coreModel }
    inseq := [7#32]
    log := [{ seq := 0, kind := .wr, addr := 0x2000, data := 7#32 }] }

theorem test_config_n1 : ConfigOK n1.cfg := by decide +kernel

/-! ### Codec (95_test_vectors.md tables E, D, X) -/

theorem test_encode_no_spill (s : State) : exec (.encode 0 (-1)) s = .next (respond (.word 0x0000FFFF#32) s) := rfl
theorem test_encode_extremes : packWord 32767 (-32768) = 0x7FFF8000#32 ∧ packWord (-181) (-181) = 0xFF4BFF4B#32 := by decide
theorem test_encode_real_first (s : State) :
    exec (.encode 70000 (-70000)) s = .next (raise (.valueOutOfRange 0 70000) s) := rfl
theorem test_decodeRaw_sign (s : State) : exec (.decodeRaw 0xFF4BFF4B#32) s = .next (respond (.sample (-181) (-181)) s) := rfl
theorem test_decodeRaw_bit15 (s : State) : exec (.decodeRaw 0x00008000#32) s = .next (respond (.sample 0 (-32768)) s) := rfl
theorem test_scale_plus : scaleComponent 1 8 (imagOf 0x00000100#32) = 65536 ∧
    scaleComponent 1 16 (realOf 0x80007FFF#32) = -2147483648 := by decide +kernel
theorem test_scale_minus : scaleComponent (-1) 8 (imagOf 0xFF4BFF4B#32) = -181 / 256 ∧
    scaleComponent (-1) 16 (imagOf 0x7FFF8000#32) = -1 / 2 := by decide +kernel
theorem test_decodeScaled_rejects :
    exec (.decodeScaled 0x100#32 17) State.reset = .next (raise (.invalidConfig 17) State.reset) := rfl

/-! ### Address map and sequencer (tables L, A, M) -/

theorem test_laneAddr_3 : exec (.laneAddr 3) State.reset = .next (respond (.addr 0x2020) State.reset) := rfl
theorem test_laneAddr_n : exec (.laneAddr 8) State.reset = .next (raise (.invalidIndex 8) State.reset) := rfl
theorem test_decodeLane_table : decodeLane cfgEx .wr 0x2000 = .wl ∧ decodeLane cfgEx .rd 0x2000 = .unmapped ∧
    decodeLane cfgEx .wr 0x2008 = .unmapped ∧ decodeLane cfgEx .rd 0x2008 = .rl 0 ∧
    decodeLane cfgEx .rd 0x200C = .unmapped ∧ decodeLane cfgEx .rd 0x200A = .unmapped ∧
    decodeLane cfgEx .rd 0x2004 = .unmapped ∧ decodeLane cfgEx .rd 0x2040 = .rl 7 ∧
    decodeLane cfgEx .rd 0x2048 = .unmapped ∧ decodeLane cfgEx .rd 0xFFFFFFFC = .unmapped := by decide

/-- R110's example, from reset. -/
theorem test_writeWord_first : exec (.writeWord 0x2000 0x00010000#32) State.reset = .next { State.reset with
    inseq := [0x00010000#32], log := [{ seq := 0, kind := .wr, addr := 0x2000, data := 0x00010000#32 }],
    response := some (.ok .unit) } := rfl
theorem test_writeWord_wrong_address : exec (.writeWord 0x2008 0#32) (n4 4) =
    .next (raise (.unmappedAccess .wr 0x2008) (n4 4)) := rfl

/-- Table M: the write after a complete sequence begins a new one. -/
theorem test_writeSample_restarts : ∃ t, exec (.writeSample 0x00050000#32) (n4 4) = .next t ∧
    t.inseq = [0x00050000#32] ∧ t.log.length = 5 := ⟨_, rfl, rfl, rfl⟩
theorem test_readLane_too_early : exec (.readLane 0) (n4 2) = .next (raise (.protocolViolation 2) (n4 2)) := rfl
theorem test_readLane_index_first : exec (.readLane 4) (n4 2) = .next (raise (.invalidIndex 4) (n4 2)) := rfl
theorem test_readWord_decode_first : exec (.readWord 0x2000) (n4 2) =
    .next (raise (.unmappedAccess .rd 0x2000) (n4 2)) := rfl

/-- Table M: a read in the read phase is one entry at the lane's address, whatever the oracle answers. -/
theorem test_readWord_logs : ∃ t w, exec (.readWord 0x2008) (n4 4) = .next t ∧ t.inseq = (n4 4).inseq ∧
    t.response = some (.ok (.word w)) ∧
    t.log = (n4 4).log ++ [{ seq := 4, kind := .rd, addr := 0x2008, data := w }] := ⟨_, _, rfl, rfl, rfl, rfl⟩
theorem test_busReadLane_logs : ∃ t, exec (.busReadLane 0x2020) (n4 4) = .next t ∧ t.log.length = 5 ∧ t.draws = 1 :=
  ⟨_, rfl, rfl, rfl⟩
theorem test_busWriteLane_logs : ∃ t, exec (.busWriteLane 0x2000 9#32) (n4 3) = .next t ∧ pos t = 4 := ⟨_, rfl, rfl⟩

/-! ### Faults, step -/

theorem test_reserved_sticky : exec .reservedA { State.reset with fault := some (.invalidIndex 4) } =
    .next { State.reset with fault := some (.invalidIndex 4), response := some (.fault (.illegalCommand 0xA#4)) } := rfl
theorem test_step_form : step (State.reset.withFetchWord 72 0x50000000300000000) =
    .next (respond (.addr 0x2020) State.reset) := by
  rw [step_of_form (e := .cmd68 0x5_00000003_00000000#68) (rest := []) test_config_ex (by decide) rfl]
  rfl
theorem test_step_reset : step { n4 3 with inbox := [.reset] } = .next { State.reset with cfg := cfgN4 } :=
  step_of_reset test_config_n4 rfl
theorem test_step_idle : step State.reset = .next State.reset := step_of_idle test_config_ex rfl

/-! ### Pseudo-operations (R146, R147) -/

theorem test_writeComplex : ∃ t, pseudoWriteComplex (-1) 0 (n4 0) = .next t ∧ t.inseq = [0xFFFF0000#32] := ⟨_, rfl, rfl⟩
theorem test_readRaw_fault : pseudoReadRaw 0 (n4 1) = .next (raise (.protocolViolation 1) (n4 1)) := rfl
theorem test_transact_operands : pseudoTransact [1#32] (n4 0) = .refused (.transactOperandCount 1) := rfl

/-! ### Witnesses: the hypotheses of each statement hold together somewhere, at the edges of their ranges -/

theorem witness_ResetStateAsSpecified : ConfigOK (n4 3).cfg ∧ (n4 0).inseq.length < (n4 0).cfg.n ∧
    (n4 3).inseq.length < (n4 3).cfg.n ∧ 0 < (n4 3).cfg.n ∧ 3 < (n4 3).cfg.n :=
  ⟨test_config_n4, by decide, by decide, by decide, by decide⟩

theorem witness_ResetEventClearsTheSpecsState :
    ConfigOK ({ n4 3 with inbox := [.reset, .op (.laneAddr 0)] } : State).cfg ∧
    ({ n4 3 with inbox := [.reset, .op (.laneAddr 0)] } : State).inbox = .reset :: [.op (.laneAddr 0)] :=
  ⟨test_config_n4, rfl⟩

theorem witness_StepRunsTheDecodedOperation : ConfigOK State.reset.cfg ∧ State.reset.inbox = [] ∧
    (State.reset.withFetchWord 72 0x50000000300000000).inbox = .form (.cmd68 0x5_00000003_00000000#68) :: [] ∧
    State.reset.cfg.addrW ≤ 32 ∧ (offer (.op (.readLane (-1))) State.reset).inbox = .op (.readLane (-1)) :: [] :=
  ⟨test_config_ex, rfl, rfl, by decide, rfl⟩

theorem witness_OnlyWellFormedConfigurationsRun :
    ¬ ConfigOK ({ State.reset with cfg := { cfgEx with n := 0 } } : State).cfg := test_config_n

theorem witness_BinaryFormsNeedNarrowAddresses : ∃ s : State, ConfigOK s.cfg ∧
    s.inbox = .form (.bus65 0#65) :: [] ∧ 32 < s.cfg.addrW :=
  ⟨{ State.reset with cfg := { cfgEx with addrW := 33 }, inbox := [.form (.bus65 0#65)] },
    by decide +kernel, rfl, by decide⟩

theorem witness_StepIssuesAtMostOneAccess : ∃ t, step (offer (.op (.writeSample 5#32)) State.reset) = .next t ∧
    t.log.length = 1 := by
  rw [step_of_op (i := .writeSample 5#32) (rest := []) test_config_ex rfl]
  exact ⟨_, rfl, rfl⟩

theorem witness_DescriptorSelectsTheOperation : 8 ≤ ((0x8_00000000_00000000#68).extractLsb' 64 4).toNat ∧
    8 ≤ ((0xF_FFFFFFFF_FFFFFFFF#68).extractLsb' 64 4).toNat := by decide

theorem witness_CanonicalDescriptors : encode (.readLane 3) = .cmd68 0x7_00000003_00000000#68 ∧
    ((0x4_00000001_00000008#68).extractLsb' 64 4).toNat ∈ [0x0, 0x2, 0x4] ∧
    ((0x7_00000003_DEADBEEF#68).extractLsb' 64 4).toNat ∈ [0x1, 0x3, 0x5, 0x6, 0x7] ∧
    8 ≤ ((0x8_00000001_00000001#68).extractLsb' 64 4).toNat := by decide

theorem witness_DecodeInvertsEncode : (Instr.writeWord 0xFFFFFFFF 1#32).WellFormed ∧ (Instr.readWord 0).WellFormed ∧
    (Instr.encode (-0x80000000) 0x7FFFFFFF).WellFormed ∧ (Instr.decodeScaled 0#32 (-0x80000000)).WellFormed ∧
    (Instr.laneAddr 0x7FFFFFFF).WellFormed ∧ (Instr.readLane (-1)).WellFormed ∧
    (Instr.busWriteLane 0xFFFFFFFF 0#32).WellFormed ∧ (Instr.busReadLane 0).WellFormed := by decide

theorem witness_HistoryEntryIsItsBusRecord :
    (∃ t, exec (.writeSample 9#32) (n4 4) = .next t ∧ (∃ v, t.response = some (.ok v)) ∧
      writesLane (.writeSample 9#32)) ∧
    (∃ t, exec (.readLane 3) (n4 4) = .next t ∧ (∃ v, t.response = some (.ok v)) ∧ readsLane (.readLane 3)) ∧
    ConfigOK (n4 4).cfg ∧ (n4 4).cfg.addrW ≤ 32 :=
  ⟨⟨_, rfl, ⟨_, rfl⟩, rfl⟩, ⟨_, rfl, ⟨_, rfl⟩, rfl⟩, test_config_n4, by decide⟩

theorem witness_ComponentPatterns : IsS16 (-32768) ∧ IsS16 (-1) ∧ IsS16 0 ∧ IsS16 32767 := by decide

theorem witness_EncodePacksTheSample : IsS16 (-32768) ∧ IsS16 32767 := by decide

theorem witness_EncodeRefusesWideComponents : ¬ (-32768 ≤ (32768 : Int) ∧ (32768 : Int) ≤ 32767) ∧
    (-32768 ≤ (32767 : Int) ∧ (32767 : Int) ≤ 32767) ∧ ¬ (-32768 ≤ (-32769 : Int) ∧ (-32769 : Int) ≤ 32767) := by decide

theorem witness_EncodeAndDecodeRawAreInverse : IsS16 32767 ∧ IsS16 (-32768) := by decide

theorem witness_DecodeScaledMultipliesByPowerOfTwo : (0 : Int) ≤ 0 ∧ (0 : Int) ≤ State.reset.cfg.w ∧
    (0 : Int) ≤ 16 ∧ (16 : Int) ≤ State.reset.cfg.w := by decide

theorem witness_DecodeScaledRejectsRadixOutOfRange : State.reset.cfg.w = 16 ∧ ((-1 : Int) < 0 ∨ 16 < (-1 : Int)) ∧
    ((17 : Int) < 0 ∨ 16 < (17 : Int)) ∧ ((0 : Int) ≤ 16 ∧ (16 : Int) ≤ 16) := by decide

theorem witness_ScalingExampleCorrected : State.reset.cfg.w = 16 ∧ State.reset.cfg.scaleSign = 1 := ⟨rfl, rfl⟩

theorem witness_ScaledResultsAreExact : ConfigOK State.reset.cfg ∧ State.reset.cfg.scaleSign = 1 ∧
    (∃ t re im, exec (.decodeScaled 0x80007FFF#32 16) State.reset = .next t ∧
      t.response = some (.ok (.scaled re im))) ∧
    (∃ t re im, exec (.decodeScaled 0x80007FFF#32 0) State.reset = .next t ∧
      t.response = some (.ok (.scaled re im))) :=
  ⟨test_config_ex, rfl, ⟨_, _, _, rfl, rfl⟩, ⟨_, _, _, rfl, rfl⟩⟩

theorem witness_ScaledValueBounds : IsS16 (-32768) ∧ IsS16 32767 ∧ (0 : Int) ≤ 0 ∧ (16 : Int) ≤ 16 := by decide

theorem witness_CodecIsPure : (∃ re im, Instr.encode 40000 0 = .encode re im) ∧ (n4 2).cfg = (n4 4).cfg :=
  ⟨⟨_, _, rfl⟩, rfl⟩

theorem witness_AddressDecodeIsTheMap : ConfigOK cfgEx ∧ State.reset.cfg = cfgEx ∧ 0 < cfgEx.n ∧ 7 < cfgEx.n :=
  ⟨test_config_ex, rfl, by decide, by decide⟩

theorem witness_UnmappedAccessesFault : ConfigOK State.reset.cfg ∧ (0x2008 : Nat) ≠ State.reset.cfg.writeLaneAddr ∧
    (∀ i < State.reset.cfg.n, (0x2048 : Nat) ≠ State.reset.cfg.readBase + i * State.reset.cfg.stride) ∧
    (0x2004 : Nat) < State.reset.cfg.readBase ∧
    State.reset.cfg.readBase + State.reset.cfg.n * State.reset.cfg.stride ≤ 0x2048 ∧
    (∃ i off, i < State.reset.cfg.n ∧ 0 < off ∧ off < State.reset.cfg.stride ∧
      (0x2047 : Nat) = State.reset.cfg.readBase + i * State.reset.cfg.stride + off) :=
  ⟨test_config_ex, by decide, by decide, by decide, by decide, 7, 7, by decide, by decide, by decide, by decide⟩

theorem witness_AddressesAboveTheSpaceAreUnmapped : ConfigOK State.reset.cfg ∧ 2 ^ State.reset.cfg.addrW ≤ 0x100000000 :=
  ⟨test_config_ex, by decide +kernel⟩

theorem witness_LaneAddrFormsTheAddress : ConfigOK (n4 0).cfg ∧ (0 : Int) ≤ 3 ∧ (3 : Int) < (n4 0).cfg.n ∧
    exec (.laneAddr (3 : Nat)) (n4 0) = exec (.laneAddr (3 : Nat)) (n4 0) := ⟨test_config_n4, by decide, by decide, rfl⟩

theorem witness_IndexOutOfRangeRejected : ((-1 : Int) < 0 ∨ ((n4 4).cfg.n : Int) ≤ -1) ∧
    ((4 : Int) < 0 ∨ ((n4 4).cfg.n : Int) ≤ 4) ∧ ConfigOK (n4 4).cfg := ⟨by decide, by decide, test_config_n4⟩

theorem witness_WriteAccess : (Instr.busWriteLane 0x2000 1#32 = .writeWord 0x2000 1#32 ∨
      Instr.busWriteLane 0x2000 1#32 = .busWriteLane 0x2000 1#32) ∧ (0x2000 : Nat) = (n4 3).cfg.writeLaneAddr ∧ (0x2008 : Nat) ≠ (n4 3).cfg.writeLaneAddr := by
  decide

theorem witness_ReadAccess : ConfigOK (n4 4).cfg ∧ (Instr.busReadLane 0x2020 = .readWord 0x2020 ∨
      Instr.busReadLane 0x2020 = .busReadLane 0x2020) ∧ 3 < (n4 4).cfg.n ∧
    (0x2020 : Nat) = (n4 4).cfg.readBase + 3 * (n4 4).cfg.stride ∧ (n4 4).inseq.length = (n4 4).cfg.n ∧
    (n4 3).inseq.length ≠ (n4 3).cfg.n ∧
    (∀ i, i < (n4 4).cfg.n → (0x2028 : Nat) ≠ (n4 4).cfg.readBase + i * (n4 4).cfg.stride) :=
  ⟨test_config_n4, by decide, by decide, by decide, by decide, by decide, by decide⟩

theorem witness_ReadLaneReadsTheLane : ConfigOK (n4 4).cfg ∧ 0 < (n4 4).cfg.n ∧ 3 < (n4 4).cfg.n ∧
    (n4 4).inseq.length = (n4 4).cfg.n ∧ (n4 0).inseq.length ≠ (n4 0).cfg.n :=
  ⟨test_config_n4, by decide, by decide, by decide, by decide⟩

theorem witness_RereadingIsASecondAccess : ConfigOK (n4 4).cfg ∧ 3 < (n4 4).cfg.n ∧ (n4 4).inseq.length = (n4 4).cfg.n :=
  ⟨test_config_n4, by decide, by decide⟩

theorem witness_ExactlyOneEntryPerAccess :
    (∃ t v, exec (.writeWord 0x2000 1#32) (n4 0) = .next t ∧ t.response = some (.ok v) ∧ writesLane (.writeWord 0x2000 1#32)) ∧
    (∃ t v, exec (.readLane 0) (n4 4) = .next t ∧ t.response = some (.ok v) ∧ readsLane (.readLane 0)) ∧
    (∃ t v, exec (.laneAddr 0) (n4 1) = .next t ∧ t.response = some (.ok v) ∧ writesLane (.laneAddr 0) = false ∧
      readsLane (.laneAddr 0) = false) :=
  ⟨⟨_, _, rfl, rfl, rfl⟩, ⟨_, _, rfl, rfl, rfl⟩, ⟨_, _, rfl, rfl, rfl, rfl⟩⟩

theorem witness_OperationFrame :
    (∃ t v, exec (.readLane 3) (n4 4) = .next t ∧ t.response = some (.ok v) ∧ writesLane (.readLane 3) = false) ∧
    (∃ t v, exec (.writeSample 1#32) (n4 4) = .next t ∧ t.response = some (.ok v) ∧ readsLane (.writeSample 1#32) = false) :=
  ⟨⟨_, _, rfl, rfl, rfl⟩, ⟨_, _, rfl, rfl, rfl⟩⟩

theorem witness_FaultDelivery : ∃ t, exec (.readLane 4) (n4 4) = .next t ∧ t.response = some (.fault (.invalidIndex 4)) :=
  ⟨_, rfl, rfl⟩

theorem witness_FaultRecordIsSticky :
    (∃ t f, exec .reserved8 (n4 4) = .next t ∧ t.response = some (.fault f) ∧ (n4 4).fault = none) ∧
    (∃ t v, exec (.decodeRaw 0#32) (n4 4) = .next t ∧ t.response = some (.ok v)) ∧
    (∃ s t : State, exec .reserved9 s = .next t ∧ s.fault = some (.invalidConfig 17)) ∧
    (∃ s t : State, step s = .next t ∧ s.fault = some (.invalidConfig 17)) ∧
    (∃ s : State, ConfigOK s.cfg ∧ s.inbox = .reset :: []) :=
  ⟨⟨_, _, rfl, rfl, rfl⟩, ⟨_, _, rfl, rfl⟩, ⟨{ n4 4 with fault := some (.invalidConfig 17) }, _, rfl, rfl⟩,
    ⟨{ State.reset with fault := some (.invalidConfig 17) }, _, step_of_idle test_config_ex rfl, rfl⟩,
    ⟨offer .reset State.reset, test_config_ex, rfl⟩⟩

theorem witness_FaultCausesByOperation : ConfigOK (n4 2).cfg ∧ ((0x7_00000003_00000000#68).extractLsb' 64 4).toNat < 8 ∧
    (∃ t, exec (decode (.cmd68 0x7_00000003_00000000#68)) (n4 2) = .next t) ∧
    (∃ t f, pseudoTransact [1#32, 2#32, 3#32, 4#32] (n4 2) = .next t ∧ t.response = some (.fault f)) :=
  ⟨test_config_n4, by decide, ⟨_, rfl⟩, ⟨_, _, rfl, rfl⟩⟩

theorem witness_FaultPriority : 8 ≤ ((0x8_00000000_00000000#68).extractLsb' 64 4).toNat ∧
    ((4 : Int) < 0 ∨ ((n4 2).cfg.n : Int) ≤ 4) ∧ (n4 2).inseq.length ≠ (n4 2).cfg.n ∧
    decodeLane (n4 2).cfg .rd 0x2000 = .unmapped ∧ ¬ IsS16 70000 ∧ ¬ IsS16 (-70000) ∧
    ((17 : Int) < 0 ∨ ((n4 2).cfg.w : Int) < 17) := by decide

theorem witness_FaultPriority_scaled : ConfigOK (n4 2).cfg ∧ ((4 : Int) < 0 ∨ ((n4 2).cfg.n : Int) ≤ 4) :=
  ⟨test_config_n4, by decide⟩

theorem witness_FaultsDoNotDisturbLaterOperations :
    (∃ t f, exec (.readLane 0) (n4 3) = .next t ∧ t.response = some (.fault f)) ∧
    (∃ s t : State, exec (.readLane 0) s = .next t ∧ s.fault = some (.invalidIndex 4)) :=
  ⟨⟨_, _, rfl, rfl⟩, ⟨{ n4 4 with fault := some (.invalidIndex 4) }, _, rfl, rfl⟩⟩

theorem witness_SequencerStateMachine : ConfigOK (n4 3).cfg ∧ pos (n4 3) < (n4 3).cfg.n ∧ pos (n4 4) = (n4 4).cfg.n ∧
    3 < (n4 4).cfg.n ∧ (∃ t f, exec (.readLane 3) (n4 3) = .next t ∧ t.response = some (.fault f)) ∧
    (∃ t, exec (.encode 1 0) (n4 3) = .next t) :=
  ⟨test_config_n4, by decide, by decide, by decide, ⟨_, _, rfl, rfl⟩, ⟨_, rfl⟩⟩

theorem witness_InvariantHoldsAtReset : ∃ s, instantiate cfgN4 = .next s := ⟨_, if_pos test_config_n4⟩

/-- A state other than reset in which the invariants hold, with the oracle narrowed and the sequence complete. -/
theorem witness_Invariants : Invariants n1 where
  config := test_config_n1
  bounded := by decide
  numbered := by decide
  writesAtLane := by decide
  readsAtLanes := by decide
  sequence := by decide
  readsAfterWrites := by decide
  countInWritePhase := by decide
  countInReadPhase := by decide

theorem witness_InvariantKeptByEveryStep : Invariants n1 ∧ (∃ t, exec (.writeSample 8#32) n1 = .next t) ∧
    (∃ t, exec (.readLane 0) n1 = .next t) ∧ (∃ t, step n1 = .next t) :=
  ⟨witness_Invariants, ⟨_, rfl⟩, ⟨_, rfl⟩, ⟨_, step_of_idle test_config_n1 rfl⟩⟩

theorem witness_NarrowedOracleReadsTheModel : Invariants n1 ∧ n1.cfg.oracle = .coreModel ∧ 0 < n1.cfg.n ∧
    n1.inseq.length = n1.cfg.n := ⟨witness_Invariants, rfl, by decide, rfl⟩

theorem witness_ReadsEnabledByTheLastWrite : ConfigOK (n4 3).cfg ∧ (n4 3).inseq.length + 1 = (n4 3).cfg.n ∧
    3 < (n4 3).cfg.n := ⟨test_config_n4, by decide, by decide⟩

theorem witness_ObservationFixesTheLog : ∃ s s' t t' : State, s.draws ≠ s'.draws ∧ s.cfg = s'.cfg ∧ s.inseq = s'.inseq ∧
    s.log = s'.log ∧ runOps [.writeSample 1#32, .readLane 0] s = .next t ∧
    runOps [.writeSample 1#32, .readLane 0] s' = .next t' ∧
    outcomes [.writeSample 1#32, .readLane 0] s = outcomes [.writeSample 1#32, .readLane 0] s' :=
  ⟨n4 2, { n4 2 with draws := 5 }, _, _, by decide, rfl, rfl, rfl, rfl, rfl, rfl⟩

theorem witness_NoFaultRecordedIffEveryOperationOk : (n4 0).fault = none ∧
    (∃ t, runOps [.writeSample 1#32] (n4 0) = .next t) ∧ AllOk [.writeSample 1#32] (n4 0) := by
  refine ⟨rfl, ⟨_, rfl⟩, fun r hr => ?_⟩
  have h : outcomes [.writeSample 1#32] (n4 0) = [some (.ok .unit)] := rfl
  rw [h] at hr
  simp at hr
  exact ⟨_, hr⟩

theorem witness_TransactLogsWritesThenReads : ConfigOK (n4 0).cfg ∧ (n4 0).inseq.length = 0 ∧
    (n4 4).inseq.length = (n4 4).cfg.n ∧ [1#32, 2#32, 3#32, 4#32].length = (n4 0).cfg.n :=
  ⟨test_config_n4, rfl, rfl, rfl⟩

theorem witness_TransactOffBoundaryFaults : ConfigOK (n4 3).cfg ∧ 0 < (n4 1).inseq.length ∧
    (n4 3).inseq.length < (n4 3).cfg.n ∧ [1#32, 2#32, 3#32, 4#32].length = (n4 3).cfg.n :=
  ⟨test_config_n4, by decide, by decide, rfl⟩

theorem witness_TransactNeedsExactlyNWords : [1#32, 2#32, 3#32].length ≠ (n4 0).cfg.n ∧
    ([] : List Word).length ≠ (n4 0).cfg.n := by decide

theorem witness_PseudoOperationsExpand : ConfigOK (n4 4).cfg ∧ IsS16 32767 ∧ IsS16 (-32768) ∧
    ¬ (IsS16 32767 ∧ IsS16 (-32769)) ∧
    (∃ t w, exec (.readLane 3) (n4 4) = .next t ∧ t.response = some (.ok (.word w))) ∧
    (∃ t f, exec (.readLane 3) (n4 3) = .next t ∧ t.response = some (.fault f)) :=
  ⟨test_config_n4, by decide, by decide, by decide, ⟨_, _, rfl, rfl⟩, ⟨_, _, rfl, rfl⟩⟩

end Sys2Proof.Tests
end

section
/-! Proofs for the scope chapter (spec/00_scope.md): the seven clauses of a well-formed configuration (R11), one step as
one operation (R7, R8), and components with their patterns (R13, R14). -/

namespace Sys2Proof

/-! ### Operands of a decoded form (R86, R88, R90) -/

/-- A 32-bit field read as a signed value lies in the signed 32-bit range. -/
theorem fitsSigned32_signed32 (w : Word) : FitsSigned32 (signed32 w) := by
  have hw := w.isLt
  unfold signed32
  split <;> constructor <;> omega

/-- A 32-bit field read as an address fits an address field. -/
theorem fitsAddrField_toNat (w : Word) : FitsAddrField w.toNat := w.isLt

/-- Every descriptor decodes to operands within their fields, one case per selector of R87 and R92. -/
theorem decodeCmd_wellFormed (d : BitVec 68) : (decodeCmd d).WellFormed := by
  unfold decodeCmd
  split
  case h_1 => exact fitsAddrField_toNat _
  case h_2 => exact fitsAddrField_toNat _
  case h_3 => exact ⟨fitsSigned32_signed32 _, fitsSigned32_signed32 _⟩
  case h_5 => exact fitsSigned32_signed32 _
  case h_6 => exact fitsSigned32_signed32 _
  case h_8 => exact fitsSigned32_signed32 _
  all_goals exact trivial

/-- Every record decodes to an address within its field. -/
theorem decodeBus_wellFormed (b : BitVec 65) : (decodeBus b).WellFormed := by
  unfold decodeBus
  split <;> exact fitsAddrField_toNat _

/-- Every binary form decodes to an operation whose operands fit their fields. -/
theorem decode_wellFormed (e : Encoded) : (decode e).WellFormed := by
  cases e with
  | cmd68 d => exact decodeCmd_wellFormed d
  | bus65 b => exact decodeBus_wellFormed b

namespace Machine

/-! ### Well-formed configurations (R11) -/

/-- The write lane below the first read lane is none of the read lanes. -/
theorem writeLaneAddr_ne_readLaneAddr {c : Cfg} (h : c.writeLaneAddr < c.readBase) (i : Nat) :
    c.writeLaneAddr ≠ readLaneAddr c i :=
  (h.trans_le (Nat.le_add_right _ _)).ne

theorem configOK_cfgEx : ConfigOK cfgEx := by
  refine ⟨by decide, by decide, by decide, by decide, by decide, by decide, ?_⟩
  exact fun i _ => writeLaneAddr_ne_readLaneAddr (by decide) i

theorem configOK_cfgN4 : ConfigOK cfgN4 := by
  refine ⟨by decide, by decide, by decide, by decide, by decide, by decide, ?_⟩
  exact fun i _ => writeLaneAddr_ne_readLaneAddr (by decide) i

theorem instantiate_of_not_configOK {c : Cfg} (hc : ¬ ConfigOK c) : instantiate c = .refused .illFormedConfig :=
  if_neg hc

theorem step_of_not_configOK {s : State} (hc : ¬ ConfigOK s.cfg) : step s = .refused .illFormedConfig := by
  simp only [step, fetch, if_neg hc]

/-! ### Component patterns (R13, R14) -/

/-- The pattern's number as R13 writes it, in the natural numbers. -/
theorem toNat_toU16_eq_toNat {c : Int} (h : IsS16 c) :
    (toU16 c).toNat = (if 0 ≤ c then c else c + 65536).toNat := by
  rw [← toNat_toU16 h, Int.toNat_natCast]

/-- Sign extension keeps the component a pattern denotes (R14). -/
theorem toInt_sext32 (p : Half) : (sext32 p).toInt = toS16 p := by
  rw [toS16_eq_toInt]
  exact BitVec.toInt_signExtend_of_le (by decide)

/-- Zero extension keeps the number of a pattern (R14). -/
theorem toNat_zext32 (p : Half) : (zext32 p).toNat = p.toNat :=
  BitVec.toNat_setWidth_of_le (by decide)

end Machine

/-! ### The obligations -/

open Machine

/-- Settles O14, from the two inverse laws of `toU16` and `toS16` and what the two extensions keep. -/
theorem componentPatterns : Obligations.ComponentPatterns :=
  ⟨fun _ hc => ⟨toS16_toU16 hc, toNat_toU16_eq_toNat hc⟩,
    fun p => ⟨toU16_toS16 p, isS16_toS16 p⟩,
    fun p => ⟨toInt_sext32 p, toNat_zext32 p⟩⟩

/-- Settles O3, by the head of the inbox; a binary form decodes to a well-formed operation. -/
theorem stepRunsTheDecodedOperation : Obligations.StepRunsTheDecodedOperation :=
  fun _ hc =>
    ⟨step_of_idle hc,
      fun _ _ hop => step_of_op hc hop,
      fun e _ hform hw => ⟨decode_wellFormed e, step_of_form hc hw hform⟩⟩

/-- Settles O4: the clauses of `ConfigOK` are those of R11, divisibility written as a remainder. -/
theorem onlyWellFormedConfigurationsRun : Obligations.OnlyWellFormedConfigurationsRun := by
  refine ⟨fun c => ?_, configOK_cfgEx, configOK_cfgN4, fun _ => instantiate_of_not_configOK,
    fun _ => step_of_not_configOK⟩
  simp only [ConfigOK, readLaneAddr, ge_iff_le, Nat.dvd_iff_mod_eq_zero, and_assoc]

end Sys2Proof
end

section
/-! Proofs for the state chapter (spec/10_state.md): what one operation and one step do to the state (R28, R29, R33), the
invariants of R30, the oracle behind the read lanes (R31, R32) and the state after reset (R39). -/

namespace Sys2Proof

namespace Machine

open Safety

/-! ### What one access delivers (R111, R113) -/

/-- The next state of a write of the write lane. -/
def afterWrite (w : Word) (s : State) : State :=
  respond .unit (pushSample w (appendAccess .wr s.cfg.writeLaneAddr w s))

/-- The next state of a read of lane `k` at `addr` in the read phase. -/
def afterRead (addr k : Nat) (s : State) : State :=
  respond (.word (coreRead s.cfg s.log k s.draws))
    (drawChoice (appendAccess .rd addr (coreRead s.cfg s.log k s.draws) s))

@[simp] theorem afterWrite_cfg (w : Word) (s : State) : (afterWrite w s).cfg = s.cfg := rfl
@[simp] theorem afterWrite_inseq (w : Word) (s : State) :
    (afterWrite w s).inseq = nextSequence s.cfg.n s.inseq w := rfl
@[simp] theorem afterWrite_log (w : Word) (s : State) :
    (afterWrite w s).log = s.log ++ [⟨s.log.length, .wr, s.cfg.writeLaneAddr, w⟩] := rfl
@[simp] theorem afterWrite_fault (w : Word) (s : State) : (afterWrite w s).fault = s.fault := rfl
@[simp] theorem afterWrite_response (w : Word) (s : State) : (afterWrite w s).response = some (.ok .unit) := rfl
@[simp] theorem afterWrite_inbox (w : Word) (s : State) : (afterWrite w s).inbox = s.inbox := rfl
@[simp] theorem afterWrite_draws (w : Word) (s : State) : (afterWrite w s).draws = s.draws := rfl

@[simp] theorem afterRead_cfg (addr k : Nat) (s : State) : (afterRead addr k s).cfg = s.cfg := rfl
@[simp] theorem afterRead_inseq (addr k : Nat) (s : State) : (afterRead addr k s).inseq = s.inseq := rfl
@[simp] theorem afterRead_log (addr k : Nat) (s : State) :
    (afterRead addr k s).log = s.log ++ [⟨s.log.length, .rd, addr, coreRead s.cfg s.log k s.draws⟩] := rfl
@[simp] theorem afterRead_fault (addr k : Nat) (s : State) : (afterRead addr k s).fault = s.fault := rfl
@[simp] theorem afterRead_response (addr k : Nat) (s : State) :
    (afterRead addr k s).response = some (.ok (.word (coreRead s.cfg s.log k s.draws))) := rfl
@[simp] theorem afterRead_inbox (addr k : Nat) (s : State) : (afterRead addr k s).inbox = s.inbox := rfl
@[simp] theorem afterRead_draws (addr k : Nat) (s : State) : (afterRead addr k s).draws = s.draws + 1 := rfl

theorem deliver_memWrite_writeLane (w : Word) (s : State) :
    deliver s (memWrite s.cfg.writeLaneAddr w s) = .next (afterWrite w s) := by
  rw [memWrite_eq, if_pos rfl]
  rfl

theorem deliver_memWrite_of_ne {addr : Nat} {s : State} (h : addr ≠ s.cfg.writeLaneAddr) (w : Word) :
    deliver s (memWrite addr w s) = .next (raise (.unmappedAccess .wr addr) s) := by
  rw [memWrite_eq, if_neg h]
  rfl

theorem deliver_memRead_of_rl {addr k : Nat} {s : State} (h : decodeLane s.cfg .rd addr = .rl k)
    (hp : s.inseq.length = s.cfg.n) : deliver s (memRead addr s) = .next (afterRead addr k s) := by
  rw [memRead_of_rl h hp]
  rfl

theorem deliver_memRead_of_incomplete {addr k : Nat} {s : State} (h : decodeLane s.cfg .rd addr = .rl k)
    (hp : s.inseq.length ≠ s.cfg.n) :
    deliver s (memRead addr s) = .next (raise (.protocolViolation s.inseq.length) s) := by
  rw [memRead_of_incomplete h hp]
  rfl

theorem deliver_memRead_of_unmapped {addr : Nat} {s : State} (h : decodeLane s.cfg .rd addr = .unmapped) :
    deliver s (memRead addr s) = .next (raise (.unmappedAccess .rd addr) s) := by
  rw [memRead_of_unmapped h]
  rfl

/-! ### The arms that test an operand (R120, R124, R140, R144) -/

theorem exec_encode_eq (re im : Int) (s : State) :
    exec (.encode re im) s = deliver s ((encodeSample re im).map fun w => (.word w, s)) := rfl

theorem exec_decodeScaled_of_fault {w : Word} {bp : Int} {f : Fault} {s : State} (h : radixFault s.cfg bp = some f) :
    exec (.decodeScaled w bp) s = .next (raise f s) := by
  simp only [exec, execDecodeScaled, h, deliver]

theorem exec_decodeScaled_of_none {w : Word} {bp : Int} {s : State} (h : radixFault s.cfg bp = none) :
    exec (.decodeScaled w bp) s = .next (respond (.scaled (scaleComponent s.cfg.scaleSign bp (realOf w))
      (scaleComponent s.cfg.scaleSign bp (imagOf w))) s) := by
  simp only [exec, execDecodeScaled, h, deliver]

theorem exec_laneAddr_eq (i : Int) (s : State) :
    exec (.laneAddr i) s = deliver s ((laneAddress s.cfg i).map fun a => (.addr a, s)) := rfl

theorem exec_readLane_of_error {i : Int} {f : Fault} {s : State} (h : laneAddress s.cfg i = .error f) :
    exec (.readLane i) s = .next (raise f s) := by
  simp only [exec, execReadLane, h, deliver]

theorem exec_readLane_of_ok {i : Int} {a : Nat} {s : State} (h : laneAddress s.cfg i = .ok a) :
    exec (.readLane i) s = deliver s (memRead a s) := by
  simp only [exec, execReadLane, h]

/-! ### What an operation does, the same in every state of one hardware and one position -/

/-- What an operation does on hardware `c` at position `m` (R27), the same in every such state: it always faults, always
answers without an access, always writes the write lane, or always reads one lane. -/
inductive ExecForm (i : Instr) (c : Cfg) (m : Nat) : Prop where
  | fault (f : Fault) (h : ∀ s : State, s.cfg = c → s.inseq.length = m → exec i s = .next (raise f s))
  | answer (v : Value) (h : ∀ s : State, s.cfg = c → s.inseq.length = m → exec i s = .next (respond v s))
  | write (w : Word) (hw : writesLane i = true)
      (h : ∀ s : State, s.cfg = c → s.inseq.length = m → exec i s = .next (afterWrite w s))
  | read (addr k : Nat) (hr : readsLane i = true) (hd : decodeLane c .rd addr = .rl k) (hp : m = c.n)
      (h : ∀ s : State, s.cfg = c → s.inseq.length = m → exec i s = .next (afterRead addr k s))

theorem execForm_of_memWrite {i : Instr} {c : Cfg} {addr : Nat} {w : Word} (m : Nat) (hw : writesLane i = true)
    (h : ∀ s : State, s.cfg = c → exec i s = deliver s (memWrite addr w s)) : ExecForm i c m := by
  by_cases ha : addr = c.writeLaneAddr
  · refine .write w hw fun s hc _ => ?_
    subst hc
    rw [h s rfl, ha, deliver_memWrite_writeLane]
  · exact .fault _ fun s hc _ => (h s hc).trans (deliver_memWrite_of_ne (hc ▸ ha) w)

theorem execForm_of_memRead {i : Instr} {c : Cfg} {addr : Nat} (m : Nat) (hr : readsLane i = true)
    (h : ∀ s : State, s.cfg = c → exec i s = deliver s (memRead addr s)) : ExecForm i c m := by
  cases hd : decodeLane c .rd addr with
  | wl => exact absurd hd (decodeLane_rd_ne_wl _ _)
  | unmapped => exact .fault _ fun s hc _ => (h s hc).trans (deliver_memRead_of_unmapped (hc ▸ hd))
  | rl k =>
    by_cases hp : m = c.n
    · refine .read addr k hr hd hp fun s hc hm => ?_
      subst hc
      exact (h s rfl).trans (deliver_memRead_of_rl hd (hm.trans hp))
    · refine .fault (.protocolViolation m) fun s hc hm => ?_
      subst hc hm
      exact (h s rfl).trans (deliver_memRead_of_incomplete hd hp)

/-- Every operation has one of the four forms. -/
theorem execForm (i : Instr) (c : Cfg) (m : Nat) : ExecForm i c m := by
  cases i with
  | writeWord addr value => exact execForm_of_memWrite m rfl fun _ _ => rfl
  | readWord addr => exact execForm_of_memRead m rfl fun _ _ => rfl
  | encode re im =>
    cases h : encodeSample re im with
    | error f => exact .fault f fun s _ _ => by rw [exec_encode_eq, h]; rfl
    | ok w => exact .answer (.word w) fun s _ _ => by rw [exec_encode_eq, h]; rfl
  | decodeRaw word => exact .answer _ fun _ _ _ => rfl
  | decodeScaled word bp =>
    cases h : radixFault c bp with
    | some f => exact .fault f fun s hs _ => exec_decodeScaled_of_fault (hs ▸ h)
    | none =>
      refine .answer (.scaled (scaleComponent c.scaleSign bp (realOf word))
        (scaleComponent c.scaleSign bp (imagOf word))) fun s hs _ => ?_
      subst hs
      exact exec_decodeScaled_of_none h
  | laneAddr k =>
    cases h : laneAddress c k with
    | error f => exact .fault f fun s hs _ => by rw [exec_laneAddr_eq, hs, h]; rfl
    | ok a => exact .answer (.addr a) fun s hs _ => by rw [exec_laneAddr_eq, hs, h]; rfl
  | writeSample word =>
    refine execForm_of_memWrite (addr := c.writeLaneAddr) (w := word) m rfl fun s hs => ?_
    subst hs
    rfl
  | readLane k =>
    cases h : laneAddress c k with
    | error f => exact .fault f fun s hs _ => exec_readLane_of_error (hs ▸ h)
    | ok a => exact execForm_of_memRead m rfl fun s hs => exec_readLane_of_ok (hs ▸ h)
  | reserved8 => exact .fault _ fun _ _ _ => rfl
  | reserved9 => exact .fault _ fun _ _ _ => rfl
  | reservedA => exact .fault _ fun _ _ _ => rfl
  | reservedB => exact .fault _ fun _ _ _ => rfl
  | reservedC => exact .fault _ fun _ _ _ => rfl
  | reservedD => exact .fault _ fun _ _ _ => rfl
  | reservedE => exact .fault _ fun _ _ _ => rfl
  | reservedF => exact .fault _ fun _ _ _ => rfl
  | busWriteLane addr wdata => exact execForm_of_memWrite m rfl fun _ _ => rfl
  | busReadLane addr => exact execForm_of_memRead m rfl fun _ _ => rfl

/-- `exec_cases`, with the accesses tied to the operations that make them. -/
theorem exec_cases_by_lane {i : Instr} {s t : State} (h : exec i s = .next t) :
    (∃ f, t = raise f s) ∨ (∃ v, t = respond v s) ∨ (writesLane i = true ∧ ∃ w, t = afterWrite w s) ∨
    (readsLane i = true ∧ ∃ addr k, decodeLane s.cfg .rd addr = .rl k ∧ s.inseq.length = s.cfg.n ∧
      t = afterRead addr k s) := by
  cases execForm i s.cfg s.inseq.length with
  | fault f hi => exact .inl ⟨f, by simpa [hi] using h.symm⟩
  | answer v hi => exact .inr (.inl ⟨v, by simpa [hi] using h.symm⟩)
  | write w hw hi => exact .inr (.inr (.inl ⟨hw, w, by simpa [hi] using h.symm⟩))
  | read addr k hr hd hp hi => exact .inr (.inr (.inr ⟨hr, addr, k, hd, hp, by simpa [hi] using h.symm⟩))

/-! ### The configuration, the history and the record along one operation (R28, R29, R33) -/

/-- An operation keeps the configuration and the inbox and adds at most one entry to the history. -/
theorem exec_cfg_inbox_log {i : Instr} {s t : State} (h : exec i s = .next t) :
    t.cfg = s.cfg ∧ t.inbox = s.inbox ∧ ∃ new : List Access, t.log = s.log ++ new ∧ new.length ≤ 1 := by
  obtain ⟨f, rfl⟩ | ⟨v, rfl⟩ | ⟨-, w, rfl⟩ | ⟨-, addr, k, -, -, rfl⟩ := exec_cases_by_lane h
  · exact ⟨rfl, rfl, [], by simp⟩
  · exact ⟨rfl, rfl, [], by simp⟩
  · exact ⟨rfl, rfl, _, afterWrite_log w s, by simp⟩
  · exact ⟨rfl, rfl, _, afterRead_log addr k s, by simp⟩

/-- An operation faults and sets the record by the sticky rule, or completes and leaves it. -/
theorem exec_response_record {i : Instr} {s t : State} (h : exec i s = .next t) :
    (∃ f, t.response = some (.fault f) ∧ t.fault = stick s.fault f) ∨
    (∃ v, t.response = some (.ok v) ∧ t.fault = s.fault) := by
  obtain ⟨f, rfl⟩ | ⟨v, rfl⟩ | ⟨-, w, rfl⟩ | ⟨-, addr, k, -, -, rfl⟩ := exec_cases_by_lane h
  · exact .inl ⟨f, rfl, rfl⟩
  · exact .inr ⟨v, rfl, rfl⟩
  · exact .inr ⟨.unit, rfl, rfl⟩
  · exact .inr ⟨_, rfl, rfl⟩

theorem exec_fault_of_response_fault {i : Instr} {s t : State} {f : Fault} (h : exec i s = .next t)
    (hr : t.response = some (.fault f)) : t.fault = stick s.fault f := by
  obtain ⟨g, hg, hs⟩ | ⟨v, hv, -⟩ := exec_response_record h
  · obtain rfl : g = f := by simpa [hg] using hr
    exact hs
  · simp [hv] at hr

theorem exec_fault_of_response_ok {i : Instr} {s t : State} {v : Value} (h : exec i s = .next t)
    (hr : t.response = some (.ok v)) : t.fault = s.fault := by
  obtain ⟨g, hg, -⟩ | ⟨v, -, hs⟩ := exec_response_record h
  · simp [hg] at hr
  · exact hs

theorem exec_keeps_recorded_fault {i : Instr} {s t : State} {g : Fault} (h : exec i s = .next t)
    (hs : s.fault = some g) : t.fault = some g := by
  obtain ⟨f, -, ht⟩ | ⟨v, -, ht⟩ := exec_response_record h
  · rw [ht, hs, stick_some]
  · rw [ht, hs]

theorem step_keeps_recorded_fault {s t : State} {g : Fault} (h : step s = .next t) (hs : s.fault = some g) :
    t.fault = some g ∨ ∃ rest, s.inbox = .reset :: rest := by
  obtain ⟨-, ⟨-, rfl⟩ | ⟨rest, hb, -⟩ | ⟨r, rest, i, -, -, hi⟩⟩ := step_cases h
  · exact .inl hs
  · exact .inr ⟨rest, hb⟩
  · exact .inl (exec_keeps_recorded_fault hi hs)

/-! ### Well-formed hardware and its lane reads (R11, R39, R113, R144) -/

theorem one_le_n {c : Cfg} (hc : ConfigOK c) : 1 ≤ c.n := hc.1

theorem stride_pos {c : Cfg} (hc : ConfigOK c) : 0 < c.stride := by
  obtain ⟨-, -, -, -, ⟨hstride, -⟩, -, -⟩ := hc
  omega

/-- A valid lane's read in the read phase (R144). -/
theorem exec_readLane_of_complete {s : State} {i : Nat} (hc : ConfigOK s.cfg) (hi : i < s.cfg.n)
    (hp : s.inseq.length = s.cfg.n) :
    exec (.readLane i) s = .next (afterRead (readLaneAddr s.cfg i) i s) :=
  (exec_readLane_of_ok (laneAddress_ok hi)).trans
    (deliver_memRead_of_rl (decodeLane_readLane (stride_pos hc) hi) hp)

/-- A read of a lane's address before the sequence is complete (R164). -/
theorem deliver_memRead_lane_of_incomplete {s : State} {i : Nat} (hc : ConfigOK s.cfg) (hi : i < s.cfg.n)
    (hp : s.inseq.length ≠ s.cfg.n) :
    deliver s (memRead (readLaneAddr s.cfg i) s) = .next (raise (.protocolViolation s.inseq.length) s) :=
  deliver_memRead_of_incomplete (decodeLane_readLane (stride_pos hc) hi) hp

/-! ### The oracle's choice (R31) -/

/-- Two states of one run that differ in the choice drawn only: the words a read returned may differ. -/
structure SameButForWordsRead (t u : State) : Prop where
  inseq : t.inseq = u.inseq
  fault : t.fault = u.fault
  shape : accessShape t.log = accessShape u.log
  written : writtenWords t.log = writtenWords u.log
  response : t.response = u.response ∨
    ∃ v w, t.response = some (.ok (.word v)) ∧ u.response = some (.ok (.word w))

theorem SameButForWordsRead.of_eq {t u : State} (hq : t.inseq = u.inseq) (hf : t.fault = u.fault) (hl : t.log = u.log)
    (hr : t.response = u.response) : SameButForWordsRead t u :=
  ⟨hq, hf, by rw [hl], by rw [hl], .inl hr⟩

theorem sameButForWordsRead_afterRead (addr k : Nat) (s : State) (d : Nat) :
    SameButForWordsRead (afterRead addr k s) (afterRead addr k { s with draws := d }) :=
  ⟨rfl, rfl, by simp [accessShape], by simp, .inr ⟨_, _, rfl, rfl⟩⟩

/-- The form of an operation does not depend on the choice. -/
theorem exec_sameButForWordsRead (i : Instr) (s : State) (d : Nat) :
    ∃ t u, exec i s = .next t ∧ exec i { s with draws := d } = .next u ∧ SameButForWordsRead t u := by
  cases execForm i s.cfg s.inseq.length with
  | fault f h => exact ⟨_, _, h _ rfl rfl, h _ rfl rfl, .of_eq rfl rfl rfl rfl⟩
  | answer v h => exact ⟨_, _, h _ rfl rfl, h _ rfl rfl, .of_eq rfl rfl rfl rfl⟩
  | write w _ h => exact ⟨_, _, h _ rfl rfl, h _ rfl rfl, .of_eq rfl rfl rfl rfl⟩
  | read addr k _ _ _ h => exact ⟨_, _, h _ rfl rfl, h _ rfl rfl, sameButForWordsRead_afterRead addr k s d⟩

/-! ### The last words of a list (R30, R32) -/

@[simp] theorem lastWords_zero (ws : List Word) : lastWords 0 ws = [] := by
  simp [lastWords]

@[simp] theorem lastWords_succ_append (k : Nat) (ws : List Word) (w : Word) :
    lastWords (k + 1) (ws ++ [w]) = lastWords k ws ++ [w] := by
  unfold lastWords
  rw [List.length_append, List.length_singleton, Nat.add_sub_add_right,
    List.drop_append_of_le_length (Nat.sub_le _ _)]

end Machine

namespace Safety

open Machine

/-! ### The clauses of R30 on the history: (2), (3) and (5) -/

/-- The clauses of R30 that speak of the history alone. -/
structure HistoryOK (c : Cfg) (log : List Access) : Prop where
  numbered : ∀ k (h : k < log.length), log[k].seq = k
  writesAtLane : ∀ a ∈ log, a.kind = .wr → a.addr = c.writeLaneAddr
  readsAtLanes : ∀ a ∈ log, a.kind = .rd → ∃ i < c.n, a.addr = readLaneAddr c i
  readsAfterWrites : ∀ k (h : k < log.length), log[k].kind = .rd → c.n ≤ (writtenWords (log.take k)).length

/-- An entry that may follow a history by R28 and R30. -/
structure MayFollow (c : Cfg) (log : List Access) (a : Access) : Prop where
  seq : a.seq = log.length
  writeAddr : a.kind = .wr → a.addr = c.writeLaneAddr
  readAddr : a.kind = .rd → ∃ i < c.n, a.addr = readLaneAddr c i
  readAfterWrites : a.kind = .rd → c.n ≤ (writtenWords log).length

theorem HistoryOK.nil (c : Cfg) : HistoryOK c [] where
  numbered := by simp
  writesAtLane := by simp
  readsAtLanes := by simp
  readsAfterWrites := by simp

/-- An entry of a history with one entry added is an old one, at its old place, or the new one, at the end. -/
theorem getElem_append_singleton_cases {log : List Access} {a : Access} {k : Nat} (h : k < (log ++ [a]).length) :
    (∃ hk : k < log.length, (log ++ [a])[k] = log[k]) ∨ (k = log.length ∧ (log ++ [a])[k] = a) := by
  rw [List.length_append, List.length_singleton] at h
  obtain hk | rfl : k < log.length ∨ k = log.length := by omega
  · exact .inl ⟨hk, List.getElem_append_left hk⟩
  · exact .inr ⟨rfl, List.getElem_concat_length rfl _⟩

theorem HistoryOK.append {c : Cfg} {log : List Access} {a : Access} (h : HistoryOK c log) (ha : MayFollow c log a) :
    HistoryOK c (log ++ [a]) where
  numbered k hk := by
    obtain ⟨hk', he⟩ | ⟨rfl, he⟩ := getElem_append_singleton_cases hk
    · rw [he, h.numbered k hk']
    · rw [he, ha.seq]
  writesAtLane b hb := by
    obtain hb | rfl : b ∈ log ∨ b = a := by simpa using hb
    · exact h.writesAtLane b hb
    · exact ha.writeAddr
  readsAtLanes b hb := by
    obtain hb | rfl : b ∈ log ∨ b = a := by simpa using hb
    · exact h.readsAtLanes b hb
    · exact ha.readAddr
  readsAfterWrites k hk hkind := by
    obtain ⟨hk', he⟩ | ⟨rfl, he⟩ := getElem_append_singleton_cases hk
    · rw [List.take_append_of_le_length hk'.le]
      exact h.readsAfterWrites k hk' (he ▸ hkind)
    · rw [List.take_left]
      exact ha.readAfterWrites (he ▸ hkind)

/-! ### The clauses of R30 on the input sequence: (1), (4) and (6) -/

/-- The clauses of R30 that speak of the input sequence and the words written. That a complete sequence follows a positive
number of writes is a consequence (`SequenceOK.length_le`). -/
structure SequenceOK (n : Nat) (seq ws : List Word) : Prop where
  bounded : seq.length ≤ n
  lastWritten : seq = lastWords seq.length ws
  count : ws.length ≡ seq.length [MOD n]

theorem SequenceOK.nil {n : Nat} : SequenceOK n [] [] := ⟨Nat.zero_le n, rfl, rfl⟩

theorem SequenceOK.length_le {n : Nat} {seq ws : List Word} (h : SequenceOK n seq ws) : seq.length ≤ ws.length := by
  have hlen := congrArg List.length h.lastWritten
  rw [lastWords, List.length_drop] at hlen
  omega

/-- The rule of R25 keeps the clauses: a word joins an incomplete sequence, or begins the next one. -/
theorem SequenceOK.push {n : Nat} {seq ws : List Word} (h : SequenceOK n seq ws) (hn : 1 ≤ n) (w : Word) :
    SequenceOK n (nextSequence n seq w) (ws ++ [w]) := by
  by_cases hp : seq.length = n
  · rw [nextSequence_of_complete hp]
    refine ⟨hn, by simp, ?_⟩
    have hcount : ws.length ≡ 0 [MOD n] := h.count.trans (by rw [hp]; exact Nat.modEq_zero_iff_dvd.2 dvd_rfl)
    simpa using hcount.add_right 1
  · rw [nextSequence_of_incomplete hp]
    have hlt : seq.length < n := lt_of_le_of_ne h.bounded hp
    refine ⟨by simpa using hlt, ?_, by simpa using h.count.add_right 1⟩
    rw [List.length_append, List.length_singleton, lastWords_succ_append, ← h.lastWritten]

/-! ### The invariants of R30 -/

theorem Invariants.historyOK {s : State} (h : Invariants s) : HistoryOK s.cfg s.log :=
  ⟨h.numbered, h.writesAtLane, h.readsAtLanes, h.readsAfterWrites⟩

theorem Invariants.sequenceOK {s : State} (h : Invariants s) :
    SequenceOK s.cfg.n s.inseq (writtenWords s.log) where
  bounded := h.bounded
  lastWritten := by
    obtain h0 | hpos := Nat.eq_zero_or_pos s.inseq.length
    · rw [h0, lastWords_zero, List.length_eq_zero_iff.1 h0]
    · exact h.sequence hpos
  count := by
    obtain hlt | heq := lt_or_eq_of_le h.bounded
    · exact h.countInWritePhase hlt
    · obtain ⟨-, hmod⟩ := h.countInReadPhase heq
      rw [Nat.ModEq, heq, hmod, Nat.mod_self]

theorem Invariants.of_clauses {s : State} (hc : ConfigOK s.cfg) (hl : HistoryOK s.cfg s.log)
    (hs : SequenceOK s.cfg.n s.inseq (writtenWords s.log)) : Invariants s where
  config := hc
  bounded := hs.bounded
  numbered := hl.numbered
  writesAtLane := hl.writesAtLane
  readsAtLanes := hl.readsAtLanes
  sequence _ := hs.lastWritten
  readsAfterWrites := hl.readsAfterWrites
  countInWritePhase _ := hs.count
  countInReadPhase heq := by
    have hn := one_le_n hc
    have hle := hs.length_le
    exact ⟨by omega, by rw [hs.count, heq, Nat.mod_self]⟩

/-- The invariants speak of the configuration, the input sequence and the history only. -/
theorem Invariants.congr {s t : State} (h : Invariants s) (hc : t.cfg = s.cfg) (hq : t.inseq = s.inseq)
    (hl : t.log = s.log) : Invariants t := by
  refine .of_clauses (hc ▸ h.config) ?_ ?_
  · rw [hc, hl]; exact h.historyOK
  · rw [hc, hq, hl]; exact h.sequenceOK

theorem Invariants.of_empty {s : State} (hc : ConfigOK s.cfg) (hq : s.inseq = []) (hl : s.log = []) :
    Invariants s := by
  refine .of_clauses hc ?_ ?_
  · rw [hl]; exact HistoryOK.nil _
  · rw [hq, hl]; exact SequenceOK.nil

theorem Invariants.of_afterWrite {s : State} (h : Invariants s) (w : Word) : Invariants (afterWrite w s) := by
  refine .of_clauses h.config (h.historyOK.append ?_) ?_
  · exact ⟨rfl, fun _ => rfl, nofun, nofun⟩
  · simpa using h.sequenceOK.push (one_le_n h.config) w

theorem Invariants.of_afterRead {s : State} {addr k : Nat} (h : Invariants s)
    (hd : decodeLane s.cfg .rd addr = .rl k) (hp : s.inseq.length = s.cfg.n) : Invariants (afterRead addr k s) := by
  have hlane := (decodeLane_rd_eq_rl_iff (stride_pos h.config) addr k).1 hd
  refine .of_clauses h.config (h.historyOK.append ?_) ?_
  · exact ⟨rfl, nofun, fun _ => ⟨k, hlane⟩, fun _ => hp ▸ h.sequenceOK.length_le⟩
  · simpa using h.sequenceOK

theorem Invariants.of_exec {i : Instr} {s t : State} (h : Invariants s) (hi : exec i s = .next t) : Invariants t := by
  obtain ⟨f, rfl⟩ | ⟨v, rfl⟩ | ⟨-, w, rfl⟩ | ⟨-, addr, k, hd, hp, rfl⟩ := exec_cases_by_lane hi
  · exact h.congr rfl rfl rfl
  · exact h.congr rfl rfl rfl
  · exact h.of_afterWrite w
  · exact h.of_afterRead hd hp

theorem Invariants.of_step {s t : State} (h : Invariants s) (ht : step s = .next t) : Invariants t := by
  obtain ⟨hc, ⟨-, rfl⟩ | ⟨rest, -, rfl⟩ | ⟨r, rest, i, -, -, hi⟩⟩ := step_cases ht
  · exact h
  · exact .of_empty hc rfl rfl
  · have hrest : Invariants { s with inbox := rest } := h.congr rfl rfl rfl
    exact hrest.of_exec hi

/-! ### The narrowed oracle (R32) -/

/-- A complete sequence is the last complete sequence of the history. -/
theorem Invariants.lastComplete_eq {s : State} (h : Invariants s) (hp : s.inseq.length = s.cfg.n) :
    lastComplete s.cfg.n s.log = s.inseq := by
  rw [lastComplete, ← hp, ← h.sequenceOK.lastWritten]

theorem Invariants.coreRead_eq {s : State} (h : Invariants s) (ho : s.cfg.oracle = .coreModel)
    (hp : s.inseq.length = s.cfg.n) (i choice : Nat) :
    coreRead s.cfg s.log i choice = Config.coreModel s.inseq i := by
  rw [coreRead, ho]
  exact congrArg (Config.coreModel · i) (h.lastComplete_eq hp)

theorem Invariants.afterRead_response {s : State} {i : Nat} (h : Invariants s) (ho : s.cfg.oracle = .coreModel)
    (hp : s.inseq.length = s.cfg.n) (addr : Nat) :
    (afterRead addr i s).response = some (.ok (.word (Config.coreModel s.inseq i))) := by
  rw [Machine.afterRead_response, h.coreRead_eq ho hp]

end Safety

/-! ### The obligations -/

open Machine Safety

/-- Settles O47, by the two groups of clauses of R30: an access adds an entry that may follow the history, a write pushes
a word by R25, and the reset event empties both. -/
theorem invariantKeptByEveryStep : Obligations.InvariantKeptByEveryStep :=
  ⟨fun _ _ _ h hi => h.of_exec hi, fun _ _ h ht => h.of_step ht⟩

/-- Settles O6, by the cases of a step. -/
theorem stepIssuesAtMostOneAccess : Obligations.StepIssuesAtMostOneAccess := by
  intro s t h
  obtain ⟨-, ⟨-, rfl⟩ | ⟨rest, hb, rfl⟩ | ⟨r, rest, i, -, -, hi⟩⟩ := step_cases h
  · exact ⟨rfl, .inl ⟨[], by simp⟩⟩
  · exact ⟨rfl, .inr ⟨rest, hb, rfl⟩⟩
  · obtain ⟨hcfg, -, hlog⟩ := exec_cfg_inbox_log hi
    exact ⟨hcfg, .inl hlog⟩

/-- Settles O37, by the four next states an operation can have. -/
theorem operationFrame : Obligations.OperationFrame := by
  intro i s t h
  obtain ⟨hcfg, hinbox, new, hlog, -⟩ := exec_cfg_inbox_log h
  refine ⟨hcfg, hinbox, ⟨new, hlog.symm⟩, ?_⟩
  have hrecord : (∃ v, t.response = some (.ok v)) → t.fault = s.fault := fun ⟨_, hv⟩ => exec_fault_of_response_ok h hv
  obtain ⟨f, rfl⟩ | ⟨v, rfl⟩ | ⟨hw, w, rfl⟩ | ⟨hr, addr, k, -, -, rfl⟩ := exec_cases_by_lane h
  · exact ⟨fun _ => rfl, fun _ => rfl, fun _ _ => rfl, hrecord⟩
  · exact ⟨fun _ => rfl, fun _ => rfl, fun _ _ => rfl, hrecord⟩
  · exact ⟨by simp [hw], fun _ => rfl, by simp [hw], hrecord⟩
  · exact ⟨fun _ => rfl, by simp [hr], by simp [hr], hrecord⟩

/-- Settles O41, by the record an operation and a step leave. -/
theorem faultRecordIsSticky : Obligations.FaultRecordIsSticky := by
  refine ⟨rfl, fun i s t f h hr hs => ?_, fun _ _ _ _ => exec_fault_of_response_ok,
    fun _ _ _ _ => exec_keeps_recorded_fault, fun _ _ _ => step_keeps_recorded_fault,
    fun s rest hc hb => ⟨_, step_of_reset hc hb, rfl⟩⟩
  rw [exec_fault_of_response_fault h hr, hs, stick_none]

/-- Settles O48: the form of an operation is the same whatever the choice. -/
theorem oracleAffectsOnlyTheValueRead : Obligations.OracleAffectsOnlyTheValueRead := by
  intro i s d
  obtain ⟨t, u, ht, hu, hsame⟩ := exec_sameButForWordsRead i s d
  exact ⟨t, u, ht, hu, hsame.inseq, hsame.fault, hsame.shape, hsame.written, hsame.response⟩

/-- Settles O49: the invariants make the complete sequence the last one written, and hold again after the first read. -/
theorem narrowedOracleReadsTheModel : Obligations.NarrowedOracleReadsTheModel := by
  intro i s h ho hi hp
  have hread := exec_readLane_of_complete h.config hi hp
  have ht : Invariants (afterRead (readLaneAddr s.cfg i) i s) := h.of_exec hread
  refine ⟨_, _, hread, h.afterRead_response ho hp _, exec_readLane_of_complete ht.config hi hp, ?_⟩
  rw [ht.afterRead_response ho hp, h.afterRead_response ho hp, afterRead_inseq]

/-- Settles O1: the three reads reach the access primitive at the lane's address, which faults before `N` words. -/
theorem resetStateAsSpecified : Obligations.ResetStateAsSpecified := by
  refine ⟨⟨rfl, rfl, rfl⟩, fun c hc => ?_, fun s hc hlt i hi => ?_⟩
  · exact ⟨_, if_pos hc, rfl, rfl, rfl, rfl, one_le_n hc⟩
  · have hfault := deliver_memRead_lane_of_incomplete hc hi hlt.ne
    exact ⟨(exec_readLane_of_ok (laneAddress_ok hi)).trans hfault, hfault, hfault⟩

/-- Settles O46: nothing is collected and nothing logged. -/
theorem invariantHoldsAtReset : Obligations.InvariantHoldsAtReset := by
  refine ⟨.of_empty configOK_cfgEx rfl rfl, fun c s h => ?_⟩
  by_cases hc : ConfigOK c
  · rw [instantiate, if_pos hc] at h
    obtain rfl : { State.reset with cfg := c } = s := by simpa using h
    exact .of_empty hc rfl rfl
  · rw [instantiate_of_not_configOK hc] at h
    cases h

end Sys2Proof
end

section
/-! Proofs for the memory chapter (spec/20_memory.md): the address decode (R57, R58, R60), the entries an access adds to the
history (R63), runs with the same outcomes (R70), and the accesses of a transaction (R64). -/

namespace Sys2Proof

namespace Machine

open Safety

/-! ### Addresses on and off the map (R57, R58) -/

theorem writeLaneAddr_ne_lane {c : Cfg} (hc : ConfigOK c) {i : Nat} (hi : i < c.n) :
    c.writeLaneAddr ≠ readLaneAddr c i := by
  obtain ⟨-, -, -, -, -, -, hdisjoint⟩ := hc
  exact hdisjoint i hi

theorem readLaneAddr_ne_writeLaneAddr {c : Cfg} (hc : ConfigOK c) {i : Nat} (hi : i < c.n) :
    readLaneAddr c i ≠ c.writeLaneAddr := (writeLaneAddr_ne_lane hc hi).symm

theorem decodeLane_wr_eq_wl_iff (c : Cfg) (a : Nat) : decodeLane c .wr a = .wl ↔ a = c.writeLaneAddr := by
  rw [decodeLane_wr]
  split <;> simp [*]

theorem decodeLane_wr_ne_rl (c : Cfg) (a i : Nat) : decodeLane c .wr a ≠ .rl i := by
  rw [decodeLane_wr]
  split <;> simp

theorem decodeLane_wr_of_ne {c : Cfg} {a : Nat} (h : a ≠ c.writeLaneAddr) : decodeLane c .wr a = .unmapped := by
  rw [decodeLane_wr, if_neg h]

/-- The subtract, remainder, divide and bound test of R57. -/
theorem decodeLane_rd_eq_rl_iff_div (c : Cfg) (a i : Nat) :
    decodeLane c .rd a = .rl i ↔
      c.readBase ≤ a ∧ (a - c.readBase) % c.stride = 0 ∧ i = (a - c.readBase) / c.stride ∧ i < c.n := by
  simp only [decodeLane]
  split
  · next h =>
    obtain ⟨hle, hmod, hlt⟩ := h
    simp only [Lane.rl.injEq, hle, hmod, true_and]
    exact ⟨fun hi => ⟨hi.symm, hi ▸ hlt⟩, fun hi => hi.1.symm⟩
  · next h =>
    refine ⟨nofun, ?_⟩
    rintro ⟨hle, hmod, rfl, hlt⟩
    exact absurd ⟨hle, hmod, hlt⟩ h

theorem decodeLane_unmapped_one_kind {c : Cfg} (hc : ConfigOK c) (a : Nat) :
    decodeLane c .wr a = .unmapped ∨ decodeLane c .rd a = .unmapped := by
  by_cases ha : a = c.writeLaneAddr
  · subst ha
    exact .inr ((decodeLane_rd_unmapped_iff (stride_pos hc) _).2 fun _ hi => writeLaneAddr_ne_lane hc hi)
  · exact .inl (decodeLane_wr_of_ne ha)

theorem exec_laneAddr_of_lt {s : State} {i : Nat} (hi : i < s.cfg.n) :
    exec (.laneAddr i) s = .next (respond (.addr (readLaneAddr s.cfg i)) s) := by
  rw [exec_laneAddr_eq, laneAddress_ok hi]
  rfl

theorem ne_readLaneAddr_of_lt_base {c : Cfg} {a : Nat} (h : a < c.readBase) (i : Nat) : a ≠ readLaneAddr c i :=
  (h.trans_le (Nat.le_add_right _ _)).ne

theorem ne_readLaneAddr_of_end_le {c : Cfg} (hc : 0 < c.stride) {a i : Nat} (h : c.readBase + c.n * c.stride ≤ a)
    (hi : i < c.n) : a ≠ readLaneAddr c i := by
  have hslot : i * c.stride < c.n * c.stride := Nat.mul_lt_mul_of_pos_right hi hc
  unfold readLaneAddr
  omega

/-- Inside a slot and not at its first address, the remainder by the stride is not 0. -/
theorem inside_slot_ne_readLaneAddr {c : Cfg} {off : Nat} (h0 : 0 < off) (hs : off < c.stride) (j i : Nat) :
    readLaneAddr c j + off ≠ readLaneAddr c i := by
  intro h
  have hsum : j * c.stride + off = i * c.stride := by
    unfold readLaneAddr at h
    omega
  have hmod := congrArg (· % c.stride) hsum
  simp only [Nat.mul_add_mod_self_right, Nat.mul_mod_left, Nat.mod_eq_of_lt hs] at hmod
  omega

/-! ### An access that completes (R63, R114) -/

/-- The entry a read of lane `k` at `addr` adds to the history (R28, R113). -/
def readEntry (addr k : Nat) (s : State) : Access := ⟨s.log.length, .rd, addr, coreRead s.cfg s.log k s.draws⟩

theorem afterRead_log_eq (addr k : Nat) (s : State) : (afterRead addr k s).log = s.log ++ [readEntry addr k s] :=
  rfl

theorem afterRead_afterRead_log (addr addr' k k' : Nat) (s : State) :
    (afterRead addr' k' (afterRead addr k s)).log =
      s.log ++ [readEntry addr k s, readEntry addr' k' (afterRead addr k s)] := by
  rw [afterRead_log_eq, afterRead_log_eq, List.append_assoc]
  rfl

/-- A write faults or is made (R111). -/
theorem deliver_memWrite_cases (addr : Nat) (w : Word) (s : State) :
    (∃ f, deliver s (memWrite addr w s) = .next (raise f s)) ∨ deliver s (memWrite addr w s) = .next (afterWrite w s) := by
  by_cases h : addr = s.cfg.writeLaneAddr
  · exact .inr (h ▸ deliver_memWrite_writeLane w s)
  · exact .inl ⟨_, deliver_memWrite_of_ne h w⟩

/-- A read faults or is made (R113). -/
theorem deliver_memRead_cases (addr : Nat) (s : State) :
    (∃ f, deliver s (memRead addr s) = .next (raise f s)) ∨
    ∃ k, deliver s (memRead addr s) = .next (afterRead addr k s) := by
  cases hd : decodeLane s.cfg .rd addr with
  | wl => exact absurd hd (decodeLane_rd_ne_wl _ _)
  | unmapped => exact .inl ⟨_, deliver_memRead_of_unmapped hd⟩
  | rl k =>
    by_cases hp : s.inseq.length = s.cfg.n
    · exact .inr ⟨k, deliver_memRead_of_rl hd hp⟩
    · exact .inl ⟨_, deliver_memRead_of_incomplete hd hp⟩

/-- The operations that write the write lane fault or make that write (R110, R142, R90). -/
theorem exec_of_writesLane {i : Instr} (hw : writesLane i = true) (s : State) :
    (∃ f, exec i s = .next (raise f s)) ∨ ∃ w, exec i s = .next (afterWrite w s) := by
  cases i with
  | writeWord addr w => exact (deliver_memWrite_cases addr w s).imp_right fun h => ⟨w, h⟩
  | writeSample w => exact .inr ⟨w, deliver_memWrite_writeLane w s⟩
  | busWriteLane addr w => exact (deliver_memWrite_cases addr w s).imp_right fun h => ⟨w, h⟩
  | _ => simp [writesLane] at hw

/-- The operations that read a read lane fault or make one read (R112, R144, R90). -/
theorem exec_of_readsLane {i : Instr} (hr : readsLane i = true) (s : State) :
    (∃ f, exec i s = .next (raise f s)) ∨ ∃ addr k, exec i s = .next (afterRead addr k s) := by
  cases i with
  | readWord addr => exact (deliver_memRead_cases addr s).imp_right fun h => ⟨addr, h⟩
  | readLane k =>
    cases h : laneAddress s.cfg k with
    | error f => exact .inl ⟨f, exec_readLane_of_error h⟩
    | ok addr =>
      rw [exec_readLane_of_ok h]
      exact (deliver_memRead_cases addr s).imp_right fun h => ⟨addr, h⟩
  | busReadLane addr => exact (deliver_memRead_cases addr s).imp_right fun h => ⟨addr, h⟩
  | _ => simp [readsLane] at hr

theorem not_exec_raise_of_ok {i : Instr} {s t : State} {v : Value} (h : exec i s = .next t)
    (hok : t.response = some (.ok v)) (f : Fault) : exec i s ≠ .next (raise f s) := by
  intro hf
  obtain rfl := Host.Outcome.next.inj (h.symm.trans hf)
  simp at hok

theorem eq_afterWrite_of_ok {i : Instr} {s t : State} {v : Value} (hw : writesLane i = true) (h : exec i s = .next t)
    (hok : t.response = some (.ok v)) : ∃ w, t = afterWrite w s := by
  obtain ⟨f, hf⟩ | ⟨w, he⟩ := exec_of_writesLane hw s
  · exact absurd hf (not_exec_raise_of_ok h hok f)
  · exact ⟨w, Host.Outcome.next.inj (h.symm.trans he)⟩

theorem eq_afterRead_of_ok {i : Instr} {s t : State} {v : Value} (hr : readsLane i = true) (h : exec i s = .next t)
    (hok : t.response = some (.ok v)) : ∃ addr k, t = afterRead addr k s := by
  obtain ⟨f, hf⟩ | ⟨addr, k, he⟩ := exec_of_readsLane hr s
  · exact absurd hf (not_exec_raise_of_ok h hok f)
  · exact ⟨addr, k, Host.Outcome.next.inj (h.symm.trans he)⟩

/-! ### Runs with the same outcomes (R70) -/

/-- The two states agree in what the history of a run depends on, its oracle's choices apart. -/
structure SameHistory (s s' : State) : Prop where
  cfg : s.cfg = s'.cfg
  inseq : s.inseq = s'.inseq
  log : s.log = s'.log

/-- One operation with one outcome seen: the word of a read entry is the response. -/
theorem SameHistory.of_exec {i : Instr} {s s' t t' : State} (h : SameHistory s s') (ht : exec i s = .next t)
    (ht' : exec i s' = .next t') (hr : t.response = t'.response) : SameHistory t t' := by
  obtain ⟨hc, hq, hl⟩ := h
  have hm : s'.inseq.length = s.inseq.length := by rw [hq]
  cases execForm i s.cfg s.inseq.length with
  | fault f hi =>
    obtain rfl := Host.Outcome.next.inj ((hi s rfl rfl).symm.trans ht)
    obtain rfl := Host.Outcome.next.inj ((hi s' hc.symm hm).symm.trans ht')
    exact ⟨hc, hq, hl⟩
  | answer v hi =>
    obtain rfl := Host.Outcome.next.inj ((hi s rfl rfl).symm.trans ht)
    obtain rfl := Host.Outcome.next.inj ((hi s' hc.symm hm).symm.trans ht')
    exact ⟨hc, hq, hl⟩
  | write w _ hi =>
    obtain rfl := Host.Outcome.next.inj ((hi s rfl rfl).symm.trans ht)
    obtain rfl := Host.Outcome.next.inj ((hi s' hc.symm hm).symm.trans ht')
    exact ⟨hc, by simp [hc, hq], by simp [hc, hl]⟩
  | read addr k _ _ _ hi =>
    obtain rfl := Host.Outcome.next.inj ((hi s rfl rfl).symm.trans ht)
    obtain rfl := Host.Outcome.next.inj ((hi s' hc.symm hm).symm.trans ht')
    have hword : coreRead s.cfg s.log k s.draws = coreRead s'.cfg s'.log k s'.draws := by simpa using hr
    exact ⟨hc, hq, by rw [afterRead_log, afterRead_log, hword, hl]⟩

theorem exec_answers (i : Instr) (s : State) : ∃ t, exec i s = .next t := by
  obtain ⟨a, ha, -⟩ := exec_eq_deliver i s
  rw [ha]
  cases a <;> exact ⟨_, rfl⟩

theorem runOps_cons {i : Instr} {s t : State} (h : exec i s = .next t) (is : List Instr) :
    runOps (i :: is) s = runOps is t := by
  simp only [runOps, h]

theorem outcomes_cons {i : Instr} {s t : State} (h : exec i s = .next t) (is : List Instr) :
    outcomes (i :: is) s = t.response :: outcomes is t := by
  simp only [outcomes, h]

theorem SameHistory.of_runOps (is : List Instr) {s s' t t' : State} (h : SameHistory s s') (ht : runOps is s = .next t)
    (ht' : runOps is s' = .next t') (hr : outcomes is s = outcomes is s') : SameHistory t t' := by
  induction is generalizing s s' with
  | nil =>
    cases ht
    cases ht'
    exact h
  | cons i is ih =>
    obtain ⟨u, hu⟩ := exec_answers i s
    obtain ⟨u', hu'⟩ := exec_answers i s'
    rw [runOps_cons hu] at ht
    rw [runOps_cons hu'] at ht'
    rw [outcomes_cons hu, outcomes_cons hu'] at hr
    obtain ⟨hresponse, hrest⟩ := List.cons.inj hr
    exact ih (h.of_exec hu hu' hresponse) ht ht' hrest

/-! ### The writes of a transaction (R147) -/

/-- The state after the words `ws` are written to the write lane, in order. -/
def afterWrites (ws : List Word) (s : State) : State := ws.foldl (fun t w => afterWrite w t) s

/-- The entries of those writes (R28). -/
def writeEntries (c : Cfg) (start : Nat) (ws : List Word) : List Access :=
  ws.mapIdx fun k w => ⟨start + k, .wr, c.writeLaneAddr, w⟩

theorem afterWrites_cons (w : Word) (ws : List Word) (s : State) :
    afterWrites (w :: ws) s = afterWrites ws (afterWrite w s) := rfl

/-- The write loop never faults: the write lane takes a word at every position (R25, R142). -/
theorem writeAll_eq (ws : List Word) (k : State → StepOutcome) (s : State) :
    writeAll ws k s = k (afterWrites ws s) := by
  induction ws generalizing s with
  | nil => rfl
  | cons w ws ih =>
    have hwrite : execWriteSample w s = .next (afterWrite w s) := deliver_memWrite_writeLane w s
    rw [writeAll, hwrite, afterWrites_cons, ← ih]
    rfl

@[simp] theorem afterWrites_cfg (ws : List Word) (s : State) : (afterWrites ws s).cfg = s.cfg := by
  induction ws generalizing s with
  | nil => rfl
  | cons w ws ih => rw [afterWrites_cons, ih, afterWrite_cfg]

@[simp] theorem afterWrites_fault (ws : List Word) (s : State) : (afterWrites ws s).fault = s.fault := by
  induction ws generalizing s with
  | nil => rfl
  | cons w ws ih => rw [afterWrites_cons, ih, afterWrite_fault]

@[simp] theorem afterWrites_draws (ws : List Word) (s : State) : (afterWrites ws s).draws = s.draws := by
  induction ws generalizing s with
  | nil => rfl
  | cons w ws ih => rw [afterWrites_cons, ih, afterWrite_draws]

@[simp] theorem afterWrites_log (ws : List Word) (s : State) :
    (afterWrites ws s).log = s.log ++ writeEntries s.cfg s.log.length ws := by
  induction ws generalizing s with
  | nil => simp [afterWrites, writeEntries]
  | cons w ws ih =>
    rw [afterWrites_cons, ih, afterWrite_log, afterWrite_cfg]
    simp [writeEntries, Nat.add_assoc, Nat.add_comm 1]

@[simp] theorem afterWrites_inseq (ws : List Word) (s : State) :
    (afterWrites ws s).inseq = ws.foldl (nextSequence s.cfg.n) s.inseq := by
  induction ws generalizing s with
  | nil => rfl
  | cons w ws ih => rw [afterWrites_cons, ih, afterWrite_cfg, afterWrite_inseq, List.foldl_cons]

/-- Words that fit the sequence are appended to it (R25). -/
theorem foldl_nextSequence_of_fits {n : Nat} {seq ws : List Word} (h : seq.length + ws.length ≤ n) :
    ws.foldl (nextSequence n) seq = seq ++ ws := by
  induction ws generalizing seq with
  | nil => simp
  | cons w ws ih =>
    rw [List.length_cons] at h
    rw [List.foldl_cons, nextSequence_of_incomplete (by omega), ih (by simp; omega)]
    simp

/-- From a transaction boundary `n` words are the next sequence (R25). -/
theorem foldl_nextSequence_of_boundary {n : Nat} {seq ws : List Word} (hseq : seq.length = 0 ∨ seq.length = n)
    (hws : ws.length = n) : ws.foldl (nextSequence n) seq = ws := by
  obtain h0 | hn := hseq
  · rw [List.length_eq_zero_iff.1 h0, foldl_nextSequence_of_fits (by simp [hws]), List.nil_append]
  · cases ws with
    | nil => exact List.length_eq_zero_iff.1 (hn.trans hws.symm)
    | cons w ws =>
      rw [List.length_cons] at hws
      rw [List.foldl_cons, nextSequence_of_complete hn, foldl_nextSequence_of_fits (by simp; omega)]
      rfl

@[simp] theorem length_writeEntries (c : Cfg) (start : Nat) (ws : List Word) :
    (writeEntries c start ws).length = ws.length := List.length_mapIdx

theorem getElem?_writeEntries (c : Cfg) (start : Nat) (ws : List Word) (k : Nat) :
    (writeEntries c start ws)[k]? = (ws[k]?).map fun w => ⟨start + k, .wr, c.writeLaneAddr, w⟩ :=
  List.getElem?_mapIdx

theorem writeEntries_are_writes {c : Cfg} {start : Nat} {ws : List Word} {a : Access} (h : a ∈ writeEntries c start ws) :
    a.kind = .wr ∧ a.addr = c.writeLaneAddr := by
  obtain ⟨k, hk, rfl⟩ := List.mem_mapIdx.1 h
  exact ⟨rfl, rfl⟩

/-! ### The reads of a transaction (R147) -/

/-- The state after lanes `0` to `m - 1` are read, in order. -/
def afterReads : Nat → State → State
  | 0, s     => s
  | m + 1, s => afterRead (readLaneAddr s.cfg m) m (afterReads m s)

/-- The word lane `i` answers when it is read after the lanes below it. -/
def laneWord (s : State) (i : Nat) : Word := coreRead s.cfg (afterReads i s).log i (s.draws + i)

/-- The words of the first `m` reads. -/
def laneWords (s : State) (m : Nat) : List Word := (List.range m).map (laneWord s)

/-- The entries of the first `m` reads (R28). -/
def readEntries (s : State) (m : Nat) : List Access :=
  (List.range m).map fun i => ⟨s.log.length + i, .rd, readLaneAddr s.cfg i, laneWord s i⟩

@[simp] theorem afterReads_cfg (m : Nat) (s : State) : (afterReads m s).cfg = s.cfg := by
  induction m with
  | zero => rfl
  | succ m ih => rw [afterReads, afterRead_cfg, ih]

@[simp] theorem afterReads_inseq (m : Nat) (s : State) : (afterReads m s).inseq = s.inseq := by
  induction m with
  | zero => rfl
  | succ m ih => rw [afterReads, afterRead_inseq, ih]

@[simp] theorem afterReads_fault (m : Nat) (s : State) : (afterReads m s).fault = s.fault := by
  induction m with
  | zero => rfl
  | succ m ih => rw [afterReads, afterRead_fault, ih]

@[simp] theorem afterReads_draws (m : Nat) (s : State) : (afterReads m s).draws = s.draws + m := by
  induction m with
  | zero => rfl
  | succ m ih => rw [afterReads, afterRead_draws, ih, Nat.add_assoc]

@[simp] theorem length_laneWords (s : State) (m : Nat) : (laneWords s m).length = m := by
  simp [laneWords]

@[simp] theorem length_readEntries (s : State) (m : Nat) : (readEntries s m).length = m := by
  simp [readEntries]

theorem laneWords_succ (s : State) (m : Nat) : laneWords s (m + 1) = laneWords s m ++ [laneWord s m] := by
  simp [laneWords, List.range_succ]

theorem readEntries_succ (s : State) (m : Nat) :
    readEntries s (m + 1) =
      readEntries s m ++ [⟨s.log.length + m, .rd, readLaneAddr s.cfg m, laneWord s m⟩] := by
  simp [readEntries, List.range_succ]

theorem coreRead_afterReads (s : State) (m : Nat) :
    coreRead (afterReads m s).cfg (afterReads m s).log m (afterReads m s).draws = laneWord s m := by
  rw [afterReads_cfg, afterReads_draws, laneWord]

@[simp] theorem afterReads_log (m : Nat) (s : State) : (afterReads m s).log = s.log ++ readEntries s m := by
  induction m with
  | zero => simp [afterReads, readEntries]
  | succ m ih =>
    rw [afterReads, afterRead_log, coreRead_afterReads, ih, readEntries_succ]
    simp

/-- The history before read `i` is the final one cut there. -/
theorem take_afterReads_log {s : State} {i m : Nat} (h : i ≤ m) :
    (afterReads m s).log.take (s.log.length + i) = (afterReads i s).log := by
  rw [afterReads_log, afterReads_log, List.take_length_add_append, readEntries, ← List.map_take, List.take_range,
    Nat.min_eq_left h, readEntries]

theorem getElem?_laneWords (s : State) {i m : Nat} (h : i < m) : (laneWords s m)[i]? = some (laneWord s i) := by
  simp [laneWords, h]

theorem getElem?_readEntries (s : State) (m i : Nat) :
    (readEntries s m)[i]? =
      ((laneWords s m)[i]?).map fun r => ⟨s.log.length + i, .rd, readLaneAddr s.cfg i, r⟩ := by
  by_cases h : i < m <;> simp [readEntries, laneWords, h]

theorem readEntries_are_reads {s : State} {m : Nat} {a : Access} (h : a ∈ readEntries s m) : a.kind = .rd := by
  obtain ⟨i, -, rfl⟩ := List.mem_map.1 h
  rfl

theorem readEntries_cover {s : State} {i m : Nat} (h : i < m) :
    ∃ a ∈ readEntries s m, a.addr = readLaneAddr s.cfg i :=
  ⟨_, List.mem_map_of_mem (List.mem_range.2 h), rfl⟩

/-- The read loop in the read phase, from lane `m` on (R147). -/
theorem readAll_range'_eq {s : State} (hc : ConfigOK s.cfg) (hp : s.inseq.length = s.cfg.n) (m j : Nat)
    (h : m + j ≤ s.cfg.n) :
    readAll (List.range' m j) (laneWords s m) (afterReads m s) =
      .next (respond (.words (laneWords s (m + j))) (afterReads (m + j) s)) := by
  induction j generalizing m with
  | zero => rfl
  | succ j ih =>
    have hread : execReadLane m (afterReads m s) = .next (afterReads (m + 1) s) := by
      have hlane : m < (afterReads m s).cfg.n := by rw [afterReads_cfg]; omega
      rw [afterReads, ← afterReads_cfg m s]
      exact exec_readLane_of_complete (by simpa using hc) hlane (by simpa using hp)
    have hresponse : (afterReads (m + 1) s).response = some (.ok (.word (laneWord s m))) := by
      rw [afterReads, afterRead_response, coreRead_afterReads]
    rw [List.range'_succ, readAll, hread]
    simp only [thenWord, hresponse]
    rw [← laneWords_succ, ih (m + 1) (by omega), Nat.add_right_comm m 1 j, Nat.add_assoc m j 1]

theorem readAll_range_eq {s : State} (hc : ConfigOK s.cfg) (hp : s.inseq.length = s.cfg.n) :
    readAll (List.range s.cfg.n) [] s =
      .next (respond (.words (laneWords s s.cfg.n)) (afterReads s.cfg.n s)) := by
  have h := readAll_range'_eq hc hp 0 s.cfg.n (by omega)
  rw [Nat.zero_add] at h
  rw [List.range_eq_range']
  exact h

/-! ### A whole transaction (R64, R147, R148) -/

/-- The state after a whole transaction from a transaction boundary: all writes, then all reads. -/
def afterTransact (ws : List Word) (s : State) : State :=
  respond (.words (laneWords (afterWrites ws s) s.cfg.n)) (afterReads s.cfg.n (afterWrites ws s))

theorem afterWrites_inseq_of_boundary {ws : List Word} {s : State}
    (hb : s.inseq.length = 0 ∨ s.inseq.length = s.cfg.n) (hws : ws.length = s.cfg.n) :
    (afterWrites ws s).inseq = ws := by
  rw [afterWrites_inseq, foldl_nextSequence_of_boundary hb hws]

theorem pseudoTransact_of_boundary {ws : List Word} {s : State} (hc : ConfigOK s.cfg)
    (hb : s.inseq.length = 0 ∨ s.inseq.length = s.cfg.n) (hws : ws.length = s.cfg.n) :
    pseudoTransact ws s = .next (afterTransact ws s) := by
  have hseq := afterWrites_inseq_of_boundary hb hws
  have hread := readAll_range_eq (s := afterWrites ws s) (by simpa using hc) (by rw [hseq, hws, afterWrites_cfg])
  rw [afterWrites_cfg] at hread
  rw [pseudoTransact, if_pos hws, writeAll_eq, hread, afterTransact]

@[simp] theorem afterTransact_cfg (ws : List Word) (s : State) : (afterTransact ws s).cfg = s.cfg :=
  (afterReads_cfg _ _).trans (afterWrites_cfg _ _)

@[simp] theorem afterTransact_fault (ws : List Word) (s : State) : (afterTransact ws s).fault = s.fault :=
  (afterReads_fault _ _).trans (afterWrites_fault _ _)

/-- The history after a transaction: the old one, the writes, the reads (R64). -/
theorem afterTransact_log (ws : List Word) (s : State) :
    (afterTransact ws s).log =
      s.log ++ (writeEntries s.cfg s.log.length ws ++ readEntries (afterWrites ws s) s.cfg.n) := by
  simp [afterTransact]

theorem getElem?_afterTransact_log_write (ws : List Word) (s : State) {k : Nat} (hk : k < ws.length) :
    (afterTransact ws s).log[s.log.length + k]? =
      (ws[k]?).map fun w => ⟨s.log.length + k, .wr, s.cfg.writeLaneAddr, w⟩ := by
  rw [afterTransact_log, List.getElem?_append_right (by omega), Nat.add_sub_cancel_left,
    List.getElem?_append_left (by simpa using hk), getElem?_writeEntries]

theorem getElem?_afterTransact_log_read (ws : List Word) (s : State) (i : Nat) :
    (afterTransact ws s).log[s.log.length + ws.length + i]? =
      ((laneWords (afterWrites ws s) s.cfg.n)[i]?).map fun r =>
        ⟨s.log.length + ws.length + i, .rd, readLaneAddr s.cfg i, r⟩ := by
  rw [afterTransact_log, Nat.add_assoc, List.getElem?_append_right (by omega), Nat.add_sub_cancel_left,
    List.getElem?_append_right (by simp), length_writeEntries, Nat.add_sub_cancel_left, getElem?_readEntries]
  simp [Nat.add_assoc]

/-- The word of read `i` is the oracle's answer to the history before it (R31). -/
theorem getElem?_laneWords_afterWrites (ws : List Word) (s : State) {i : Nat} (hi : i < s.cfg.n) :
    (laneWords (afterWrites ws s) s.cfg.n)[i]? =
      some (coreRead s.cfg ((afterTransact ws s).log.take (s.log.length + ws.length + i)) i (s.draws + i)) := by
  have htake := take_afterReads_log (s := afterWrites ws s) hi.le
  rw [afterWrites_log, List.length_append, length_writeEntries] at htake
  rw [getElem?_laneWords _ hi, laneWord, ← htake, afterWrites_cfg, afterWrites_draws]
  rfl

theorem completeTransaction_afterTransact {ws : List Word} {s : State} (hws : ws.length = s.cfg.n) :
    CompleteTransaction s.cfg ((afterTransact ws s).log.drop s.log.length) := by
  rw [afterTransact_log, List.drop_left]
  refine ⟨_, _, rfl, by simpa using hws, fun _ => writeEntries_are_writes, fun _ => readEntries_are_reads, fun i hi => ?_⟩
  simpa using readEntries_cover (s := afterWrites ws s) hi

end Machine

/-! ### The obligations -/

open Machine Safety

/-- Settles O25, by the tests of R57 and the disjointness clause of R11. -/
theorem addressDecodeIsTheMap : Obligations.AddressDecodeIsTheMap := by
  intro c hc
  refine ⟨decodeLane_wr_eq_wl_iff c, decodeLane_rd_eq_rl_iff_div c, decodeLane_rd_ne_wl c, decodeLane_wr_ne_rl c,
    decodeLane_unmapped_one_kind hc, fun i s hs hi => ?_⟩
  subst hs
  have hd := decodeLane_readLane (stride_pos hc) hi
  exact ⟨_, exec_laneAddr_of_lt hi, hd, fun j hj => Lane.rl.inj (hj.symm.trans hd)⟩

/-- Settles O26: an address that is no lane's for its kind decodes to no lane, and a slot's first address is the lane's only
one. -/
theorem unmappedAccessesFault : Obligations.UnmappedAccessesFault := by
  intro s hc
  refine ⟨fun a v ha => deliver_memWrite_of_ne ha v,
    fun i v hi => deliver_memWrite_of_ne (readLaneAddr_ne_writeLaneAddr hc hi) v,
    fun a ha => deliver_memRead_of_unmapped ((decodeLane_rd_unmapped_iff (stride_pos hc) a).2 ha),
    fun a ha i hi => ?_⟩
  obtain rfl | hlow | hhigh | ⟨j, off, -, h0, hoff, rfl⟩ := ha
  · exact writeLaneAddr_ne_lane hc hi
  · exact ne_readLaneAddr_of_lt_base hlow i
  · exact ne_readLaneAddr_of_end_le (stride_pos hc) hhigh hi
  · exact inside_slot_ne_readLaneAddr h0 hoff j i

/-- Settles O27: an address that decodes to lane `i` is one of eight, and one that decodes to none is none of them. -/
theorem exampleAddressMap : Obligations.ExampleAddressMap := by
  refine ⟨decodeLane_wr cfgEx, fun a => ?_⟩
  have hstride : 0 < cfgEx.stride := by decide
  cases hd : decodeLane cfgEx .rd a with
  | wl => exact absurd hd (decodeLane_rd_ne_wl _ _)
  | rl i =>
    obtain ⟨hi, rfl⟩ := (decodeLane_rd_eq_rl_iff hstride a i).1 hd
    have hi8 : i < 8 := hi
    interval_cases i <;> rfl
  | unmapped =>
    have hne : ∀ i < 8, a ≠ 0x2008 + i * 8 := (decodeLane_rd_unmapped_iff hstride a).1 hd
    simp [hne 0, hne 1, hne 2, hne 3, hne 4, hne 5, hne 6, hne 7]

/-- Settles O35: a read keeps the sequence complete, so the second is made like the first. -/
theorem rereadingIsASecondAccess : Obligations.RereadingIsASecondAccess := by
  intro i s hc hi hp
  have hfirst := exec_readLane_of_complete hc hi hp
  have hsecond := exec_readLane_of_complete (s := afterRead (readLaneAddr s.cfg i) i s) hc hi hp
  exact ⟨_, _, readEntry _ i s, readEntry _ i (afterRead _ i s), hfirst, hsecond, afterRead_afterRead_log _ _ i i s,
    rfl, rfl, rfl, List.length_append, rfl, rfl, rfl, rfl⟩

/-- Settles O36: an access that completes is the one its operation makes, and the frame gives the rest. -/
theorem exactlyOneEntryPerAccess : Obligations.ExactlyOneEntryPerAccess := by
  rintro i s t h ⟨v, hok⟩
  obtain ⟨-, -, -, -, -, hlog, -⟩ := operationFrame i s t h
  refine ⟨fun hw => ?_, fun hr => ?_, hlog⟩
  · obtain ⟨w, rfl⟩ := eq_afterWrite_of_ok hw h hok
    exact ⟨w, afterWrite_log w s⟩
  · obtain ⟨addr, k, rfl⟩ := eq_afterRead_of_ok hr h hok
    exact ⟨addr, _, afterRead_log addr k s, afterRead_response addr k s⟩

/-- Settles O51, by induction over the run: one outcome fixes one entry. -/
theorem observationFixesTheLog : Obligations.ObservationFixesTheLog := by
  intro is s s' t t' hc hq hl ht ht' hr
  obtain ⟨-, hinseq, hlog⟩ := SameHistory.of_runOps is ⟨hc, hq, hl⟩ ht ht' hr
  exact ⟨hlog, hinseq⟩

/-- Settles O53: the write loop and the read loop in closed form, and the history they leave. -/
theorem transactLogsWritesThenReads : Obligations.TransactLogsWritesThenReads := by
  intro s ws hc hb hws
  have hseq : (afterTransact ws s).inseq = ws := (afterReads_inseq _ _).trans (afterWrites_inseq_of_boundary hb hws)
  refine ⟨afterTransact ws s, _, pseudoTransact_of_boundary hc hb hws, rfl, length_laneWords _ _, hseq,
    afterTransact_fault ws s, afterTransact_cfg ws s, ?_, ⟨_, (afterTransact_log ws s).symm⟩,
    fun k hk => ?_, fun i _ => ?_, fun i hi => ?_,
    completeTransaction_afterTransact hws, fun h0 => ⟨(afterTransact_fault ws s).trans h0, .inr ?_⟩⟩
  · rw [afterTransact_log]
    simp [hws, Nat.two_mul]
  · exact getElem?_afterTransact_log_write ws s (hws ▸ hk)
  · have hread := getElem?_afterTransact_log_read ws s i
    rw [hws] at hread
    exact hread
  · have hword := getElem?_laneWords_afterWrites ws s hi
    rw [hws] at hword
    exact hword
  · rw [hseq, hws, afterTransact_cfg]

end Sys2Proof
end

section
/-! Proofs for the encoding chapter (spec/30_encoding.md): the opcode map and its inverse (R86 to R90, R92), canonical forms
(R89), the record of a history entry (R90), the components of a word (R82, R83) and the bounds of the address space (R11). -/

namespace Sys2Proof

/-! ### The selectors (R87, R92) -/

theorem selector_cases (op : BitVec 4) :
    op = 0x0#4 ∨ op = 0x1#4 ∨ op = 0x2#4 ∨ op = 0x3#4 ∨ op = 0x4#4 ∨ op = 0x5#4 ∨ op = 0x6#4 ∨ op = 0x7#4 ∨
    8 ≤ op.toNat := by
  revert op
  decide

theorem reserved_selector_cases {op : BitVec 4} (h : 8 ≤ op.toNat) :
    op = 0x8#4 ∨ op = 0x9#4 ∨ op = 0xA#4 ∨ op = 0xB#4 ∨ op = 0xC#4 ∨ op = 0xD#4 ∨ op = 0xE#4 ∨ op = 0xF#4 := by
  revert op
  decide

/-- Case analysis of a descriptor: one case per operation of the opcode map, and one for the reserved selectors. -/
theorem descriptor_cases {P : BitVec 68 → Prop}
    (writeWord : ∀ a b, P (mkCmd 0x0#4 a b)) (readWord : ∀ a b, P (mkCmd 0x1#4 a b))
    (encode : ∀ a b, P (mkCmd 0x2#4 a b)) (decodeRaw : ∀ a b, P (mkCmd 0x3#4 a b))
    (decodeScaled : ∀ a b, P (mkCmd 0x4#4 a b)) (laneAddr : ∀ a b, P (mkCmd 0x5#4 a b))
    (writeSample : ∀ a b, P (mkCmd 0x6#4 a b)) (readLane : ∀ a b, P (mkCmd 0x7#4 a b))
    (reserved : ∀ op a b, 8 ≤ op.toNat → P (mkCmd op a b)) (d : BitVec 68) : P d := by
  rw [← mkCmd_fields d]
  generalize cmdOp d = op
  obtain rfl | rfl | rfl | rfl | rfl | rfl | rfl | rfl | h := selector_cases op
  · exact writeWord _ _
  · exact readWord _ _
  · exact encode _ _
  · exact decodeRaw _ _
  · exact decodeScaled _ _
  · exact laneAddr _ _
  · exact writeSample _ _
  · exact readLane _ _
  · exact reserved _ _ _ h

/-! ### What a descriptor decodes to, selector by selector (R87, R88) -/

@[simp] theorem decodeCmd_writeWord (a b : Word) : decodeCmd (mkCmd 0x0#4 a b) = .writeWord a.toNat b := by
  simp [decodeCmd]

@[simp] theorem decodeCmd_readWord (a b : Word) : decodeCmd (mkCmd 0x1#4 a b) = .readWord a.toNat := by
  simp [decodeCmd]

@[simp] theorem decodeCmd_encode (a b : Word) :
    decodeCmd (mkCmd 0x2#4 a b) = .encode (signed32 a) (signed32 b) := by
  simp [decodeCmd]

@[simp] theorem decodeCmd_decodeRaw (a b : Word) : decodeCmd (mkCmd 0x3#4 a b) = .decodeRaw a := by
  simp [decodeCmd]

@[simp] theorem decodeCmd_decodeScaled (a b : Word) :
    decodeCmd (mkCmd 0x4#4 a b) = .decodeScaled a (signed32 b) := by
  simp [decodeCmd]

@[simp] theorem decodeCmd_laneAddr (a b : Word) : decodeCmd (mkCmd 0x5#4 a b) = .laneAddr (signed32 a) := by
  simp [decodeCmd]

@[simp] theorem decodeCmd_writeSample (a b : Word) : decodeCmd (mkCmd 0x6#4 a b) = .writeSample a := by
  simp [decodeCmd]

@[simp] theorem decodeCmd_readLane (a b : Word) : decodeCmd (mkCmd 0x7#4 a b) = .readLane (signed32 a) := by
  simp [decodeCmd]

/-- The arguments of a reserved selector are not read (R92). -/
theorem decodeCmd_reserved {op : BitVec 4} (h : 8 ≤ op.toNat) (a b : Word) :
    decodeCmd (mkCmd op a b) = decodeCmd (mkCmd op 0#32 0#32) := by
  obtain rfl | rfl | rfl | rfl | rfl | rfl | rfl | rfl := reserved_selector_cases h <;> simp [decodeCmd]

/-- A reserved selector decodes to one of the eight reserved constructors. -/
theorem decodeCmd_reserved_mem {op : BitVec 4} (h : 8 ≤ op.toNat) (a b : Word) :
    decodeCmd (mkCmd op a b) ∈ [Instr.reserved8, .reserved9, .reservedA, .reservedB, .reservedC, .reservedD,
      .reservedE, .reservedF] := by
  rw [decodeCmd_reserved h]
  revert op
  decide

/-- The reserved constructor of a selector encodes to that selector with both arguments zero (assumption 17). -/
theorem encode_decodeCmd_reserved {op : BitVec 4} (h : 8 ≤ op.toNat) (a b : Word) :
    encode (decodeCmd (mkCmd op a b)) = .cmd68 (mkCmd op 0#32 0#32) := by
  rw [decodeCmd_reserved h]
  revert op
  decide

/-! ### Records (R90) -/

@[simp] theorem decodeBus_mkBus_true (a w : Word) : decodeBus (mkBus true a w) = .busWriteLane a.toNat w := by
  simp [decodeBus]

@[simp] theorem decodeBus_mkBus_false (a w : Word) : decodeBus (mkBus false a w) = .busReadLane a.toNat := by
  simp [decodeBus]

/-- Case analysis of a record by its `we` bit. -/
theorem record_cases {P : BitVec 65 → Prop} (write : ∀ a w, P (mkBus true a w)) (read : ∀ a w, P (mkBus false a w))
    (b : BitVec 65) : P b := by
  rw [← mkBus_fields b]
  cases busWe b with
  | true => exact write _ _
  | false => exact read _ _

@[simp] theorem canonicalBus_mkBus_true (a w : Word) : canonicalBus (mkBus true a w) = mkBus true a w := by
  simp [canonicalBus]

@[simp] theorem canonicalBus_mkBus_false (a w : Word) : canonicalBus (mkBus false a w) = mkBus false a 0#32 := by
  simp [canonicalBus]

/-! ### Decoding inverts encoding (R86 to R90) -/

theorem decode_encode {i : Instr} (h : i.WellFormed) : decode (encode i) = i := by
  cases i with
  | writeWord _ _ | readWord _ | busWriteLane _ _ | busReadLane _ => simp [encode, decode, toNat_addrField h]
  | encode re im =>
    obtain ⟨hre, him⟩ := h
    simp [encode, decode, signed32_signedField hre, signed32_signedField him]
  | decodeScaled _ _ | laneAddr _ | readLane _ => simp [encode, decode, signed32_signedField h]
  | decodeRaw _ | writeSample _ => simp [encode, decode]
  | reserved8 | reserved9 | reservedA | reservedB | reservedC | reservedD | reservedE | reservedF => rfl

/-! ### Canonical forms (R89, R90) -/

theorem canonicalCmd_of_two_args {d : BitVec 68} (h : (cmdOp d).toNat ∈ [0x0, 0x2, 0x4]) : canonicalCmd d = d := by
  simp only [List.mem_cons, List.not_mem_nil, or_false] at h
  exact if_pos h

theorem canonicalCmd_of_one_arg {d : BitVec 68} (h : (cmdOp d).toNat ∈ [0x1, 0x3, 0x5, 0x6, 0x7]) :
    canonicalCmd d = mkCmd (cmdOp d) (cmdArg0 d) 0#32 := by
  simp only [List.mem_cons, List.not_mem_nil, or_false] at h
  unfold canonicalCmd
  rw [if_neg (by omega), if_pos (by omega)]

theorem canonicalCmd_of_reserved {d : BitVec 68} (h : 8 ≤ (cmdOp d).toNat) :
    canonicalCmd d = mkCmd (cmdOp d) 0#32 0#32 := by
  unfold canonicalCmd
  rw [if_neg (by omega), if_neg (by omega)]

/-- Encoding what a form decodes to gives its canonical form. -/
theorem encode_decode (e : Encoded) : encode (decode e) = canonical e := by
  cases e with
  | cmd68 d =>
    simp only [decode, canonical]
    cases d using descriptor_cases with
    | writeWord a b | encode a b | decodeScaled a b => simp [encode, canonicalCmd_of_two_args]
    | readWord a b | decodeRaw a b | laneAddr a b | writeSample a b | readLane a b =>
      simp [encode, canonicalCmd_of_one_arg]
    | reserved op a b h => rw [encode_decodeCmd_reserved h, canonicalCmd_of_reserved (by simpa using h), cmdOp_mkCmd]
  | bus65 b =>
    simp only [decode, canonical]
    cases b using record_cases with
    | write a w | read a w => simp [encode]

/-- A form and its canonical form decode to the same operation: the canonical form encodes that operation. -/
theorem decode_canonical (e : Encoded) : decode (canonical e) = decode e := by
  rw [← encode_decode e]
  exact decode_encode (decode_wellFormed e)

/-- Every encoding is canonical, of an operation whose operands do not fit their fields too (assumption 18). -/
theorem canonical_encode (i : Instr) : canonical (encode i) = encode i := by
  cases i with
  | writeWord _ _ | encode _ _ | decodeScaled _ _ => simp [encode, canonical, canonicalCmd_of_two_args]
  | readWord _ | decodeRaw _ | laneAddr _ | writeSample _ | readLane _ =>
    simp [encode, canonical, canonicalCmd_of_one_arg]
  | busWriteLane _ _ | busReadLane _ => simp [encode, canonical]
  | reserved8 | reserved9 | reservedA | reservedB | reservedC | reservedD | reservedE | reservedF => rfl

theorem mkCmd_zero_args (op : BitVec 4) : mkCmd op 0#32 0#32 = op ++ 0#64 := by
  revert op
  decide

theorem decodeCmd_mem_reserved_iff (d : BitVec 68) :
    decodeCmd d ∈ [Instr.reserved8, .reserved9, .reservedA, .reservedB, .reservedC, .reservedD, .reservedE,
      .reservedF] ↔ 8 ≤ (cmdOp d).toNat := by
  cases d using descriptor_cases with
  | reserved op a b h => exact iff_of_true (decodeCmd_reserved_mem h a b) (by simpa using h)
  | _ => simp

namespace Machine

open Safety

/-! ### The operations a descriptor names (R92, R120) -/

theorem exec_decodeCmd_of_reserved {d : BitVec 68} (h : 8 ≤ (cmdOp d).toNat) (s : State) :
    exec (decodeCmd d) s = .next (raise (.illegalCommand (cmdOp d)) s) := by
  rw [← mkCmd_fields d, decodeCmd_reserved h, cmdOp_mkCmd]
  generalize cmdOp d = op at h
  obtain rfl | rfl | rfl | rfl | rfl | rfl | rfl | rfl := reserved_selector_cases h <;> rfl

theorem exec_encode_of_isS16 {re im : Int} (hre : IsS16 re) (him : IsS16 im) (s : State) :
    exec (.encode re im) s = .next (respond (.word (packWord re im)) s) := by
  rw [exec_encode_eq, encodeSample, if_neg (not_not_intro hre), if_neg (not_not_intro him)]
  rfl

theorem exec_encode_of_not_isS16_re {re : Int} (hre : ¬ IsS16 re) (im : Int) (s : State) :
    exec (.encode re im) s = .next (raise (.valueOutOfRange 0 re) s) := by
  rw [exec_encode_eq, encodeSample, if_pos hre]
  rfl

/-! ### The fields of a word as numbers (R80) -/

theorem toNat_reField (w : Word) : (reField w).toNat = w.toNat / 65536 := by
  have hw := w.isLt
  rw [reField, BitVec.extractLsb'_toNat, Nat.shiftRight_eq_div_pow]
  omega

theorem toNat_imField (w : Word) : (imField w).toNat = w.toNat % 65536 := by
  rw [imField, BitVec.extractLsb'_toNat, Nat.shiftRight_zero]

/-- The value of a word from its fields (R82). -/
theorem toNat_eq_fields (w : Word) : w.toNat = (reField w).toNat * 65536 + (imField w).toNat := by
  rw [toNat_reField, toNat_imField, Nat.div_add_mod']

theorem realOf_eq (w : Word) : realOf w =
    if w.toNat / 65536 < 32768 then ((w.toNat / 65536 : Nat) : Int) else ((w.toNat / 65536 : Nat) : Int) - 65536 := by
  rw [realOf, toS16, toNat_reField]

theorem imagOf_eq (w : Word) : imagOf w =
    if w.toNat % 65536 < 32768 then ((w.toNat % 65536 : Nat) : Int) else ((w.toNat % 65536 : Nat) : Int) - 65536 := by
  rw [imagOf, toS16, toNat_imField]

theorem exec_decodeRaw_eq (w : Word) (s : State) :
    exec (.decodeRaw w) s = .next (respond (.sample (realOf w) (imagOf w)) s) := rfl

/-! ### The lanes lie in the address space (R11) -/

theorem writeLaneAddr_lt_space {c : Cfg} (hc : ConfigOK c) : c.writeLaneAddr < 2 ^ c.addrW := by
  obtain ⟨-, -, -, -, -, ⟨-, hwrite⟩, -⟩ := hc
  omega

theorem readLaneAddr_lt_space {c : Cfg} (hc : ConfigOK c) {i : Nat} (hi : i < c.n) :
    readLaneAddr c i < 2 ^ c.addrW := by
  obtain ⟨-, -, -, -, -, ⟨hread, -⟩, -⟩ := hc
  have hlast : i * c.stride ≤ (c.n - 1) * c.stride := Nat.mul_le_mul_right _ (by omega)
  unfold readLaneAddr
  omega

/-- An address of the space fits an address field where `ADDR_W <= 32` (R86). -/
theorem fitsAddrField_of_lt_space {c : Cfg} {a : Nat} (hw : c.addrW ≤ 32) (ha : a < 2 ^ c.addrW) : FitsAddrField a :=
  ha.trans_le (Nat.pow_le_pow_right (by decide) hw)

/-! ### The access of an operation that completes (R90) -/

/-- An access that completes is the write of the write lane, or a read in the read phase at an address that decodes to a
lane. -/
theorem access_of_ok {i : Instr} {s t : State} {v : Value} (hl : writesLane i = true ∨ readsLane i = true)
    (h : exec i s = .next t) (hok : t.response = some (.ok v)) :
    (∃ w, t = afterWrite w s) ∨
    ∃ addr k, decodeLane s.cfg .rd addr = .rl k ∧ s.inseq.length = s.cfg.n ∧ t = afterRead addr k s := by
  have hlog : t.log ≠ s.log := by
    obtain hw | hr := hl
    · obtain ⟨w, rfl⟩ := eq_afterWrite_of_ok hw h hok
      simp
    · obtain ⟨addr, k, rfl⟩ := eq_afterRead_of_ok hr h hok
      simp
  obtain ⟨f, rfl⟩ | ⟨v, rfl⟩ | ⟨-, hwrite⟩ | ⟨-, hread⟩ := exec_cases_by_lane h
  · exact absurd (raise_log f s) hlog
  · exact absurd (respond_log v s) hlog
  · exact .inl hwrite
  · exact .inr hread

theorem exec_busWriteLane_writeLane (w : Word) (s : State) :
    exec (.busWriteLane s.cfg.writeLaneAddr w) s = .next (afterWrite w s) := deliver_memWrite_writeLane w s

theorem exec_busReadLane_of_rl {addr k : Nat} {s : State} (hd : decodeLane s.cfg .rd addr = .rl k)
    (hp : s.inseq.length = s.cfg.n) : exec (.busReadLane addr) s = .next (afterRead addr k s) :=
  deliver_memRead_of_rl hd hp

/-- A binary form on hardware with wide addresses (R86, assumption 6). -/
theorem step_of_form_wide {s : State} {e : Encoded} {rest : List Request} (hc : ConfigOK s.cfg) (hw : 32 < s.cfg.addrW)
    (h : s.inbox = .form e :: rest) : step s = .refused .formatNeedsNarrowAddr := by
  simp only [step, fetch, if_pos hc, h, serve, if_neg hw.not_ge]

end Machine

/-! ### The obligations -/

open Machine Safety

/-- Settles O9, operation by operation: each field gives back the operand put there. -/
theorem decodeInvertsEncode : Obligations.DecodeInvertsEncode := fun _ => decode_encode

/-- Settles O8, by the three kinds of selector: a form is read through its canonical form, which encodes what it decodes
to. -/
theorem canonicalDescriptors : Obligations.CanonicalDescriptors := by
  refine ⟨fun d => decode_canonical (.cmd68 d), fun d => encode_decode (.cmd68 d), fun i d hi => ?_,
    fun _ => canonicalCmd_of_two_args, fun _ => canonicalCmd_of_one_arg,
    fun d h => (canonicalCmd_of_reserved h).trans (mkCmd_zero_args _), decodeCmd_mem_reserved_iff, fun d a w => ?_⟩
  · have hcanon := canonical_encode i
    rw [hi] at hcanon
    exact Encoded.cmd68.inj hcanon
  · have hform := encode_decode (.cmd68 d)
    constructor <;> intro hbus <;> rw [hbus] at hform <;> cases hform

/-- Settles O11: the record of the entry repeats the access, at a lane's address, which fits the address field. -/
theorem historyEntryIsItsBusRecord : Obligations.HistoryEntryIsItsBusRecord := by
  rintro i s t hl h ⟨v, hok⟩
  obtain ⟨w, rfl⟩ | ⟨addr, k, hd, hp, rfl⟩ := access_of_ok hl h hok
  · exact ⟨_, afterWrite_log w s, exec_busWriteLane_writeLane w s, fun hc haddrW =>
      decode_encode (i := .busWriteLane _ w) (fitsAddrField_of_lt_space haddrW (writeLaneAddr_lt_space hc))⟩
  · refine ⟨_, afterRead_log addr k s, exec_busReadLane_of_rl hd hp, fun hc haddrW => ?_⟩
    obtain ⟨hk, rfl⟩ := (decodeLane_rd_eq_rl_iff (stride_pos hc) addr k).1 hd
    exact decode_encode (i := .busReadLane _) (fitsAddrField_of_lt_space haddrW (readLaneAddr_lt_space hc hk))

/-- Settles O12, by the selector of a descriptor and the `we` bit of a record. -/
theorem decodedOperationsAreWellFormed : Obligations.DecodedOperationsAreWellFormed := decode_wellFormed

/-- Settles O15: the fields of the packed word are the two patterns, and a word is the number its fields make. -/
theorem encodePacksTheSample : Obligations.EncodePacksTheSample := by
  intro re im s hre him
  have hreal : ((reField (packWord re im)).toNat : Int) = if 0 ≤ re then re else re + 65536 := by
    rw [reField_packWord, toNat_toU16 hre]
  have himag : ((imField (packWord re im)).toNat : Int) = if 0 ≤ im then im else im + 65536 := by
    rw [imField_packWord, toNat_toU16 him]
  refine ⟨packWord re im, exec_encode_of_isS16 hre him s, ?_, hreal, himag⟩
  rw [toNat_eq_fields, Nat.cast_add, Nat.cast_mul, hreal, himag]
  rfl

/-- Settles O17: the fields are the quotient and the remainder by `2^16`, each read as two's complement. -/
theorem decodeRawSignExtendsEachField : Obligations.DecodeRawSignExtendsEachField := by
  refine ⟨fun w s => ?_, fun s => exec_decodeRaw_eq _ s⟩
  rw [exec_decodeRaw_eq, realOf_eq, imagOf_eq]
  rfl

/-- Settles O28: every lane lies below `2^ADDR_W`, so an address at or above it is no lane's. -/
theorem addressesAboveTheSpaceAreUnmapped : Obligations.AddressesAboveTheSpaceAreUnmapped := by
  intro s a v hc ha
  have hwrite : a ≠ s.cfg.writeLaneAddr := ((writeLaneAddr_lt_space hc).trans_le ha).ne'
  have hread : ∀ i < s.cfg.n, a ≠ readLaneAddr s.cfg i := fun i hi => ((readLaneAddr_lt_space hc hi).trans_le ha).ne'
  exact ⟨deliver_memWrite_of_ne hwrite v,
    deliver_memRead_of_unmapped ((decodeLane_rd_unmapped_iff (stride_pos hc) a).2 hread)⟩

/-- Settles O5, by the test on `ADDR_W` when a form is served. -/
theorem binaryFormsNeedNarrowAddresses : Obligations.BinaryFormsNeedNarrowAddresses :=
  fun _ _ _ hc hform hw => step_of_form_wide hc hw hform

/-- Settles O13: each word evaluated by the decoder. -/
theorem specsWordsDecode : Obligations.SpecsWordsDecode := by
  unfold Obligations.SpecsWordsDecode
  decide

/-- Settles O7: the opcode map selector by selector, and the two descriptors of `encode` through the operation they name. -/
theorem descriptorSelectsTheOperation : Obligations.DescriptorSelectsTheOperation := by
  refine ⟨fun a b => ⟨decodeCmd_writeWord a b, decodeCmd_readWord a b, decodeCmd_encode a b, decodeCmd_decodeRaw a b,
    decodeCmd_decodeScaled a b, decodeCmd_laneAddr a b, decodeCmd_writeSample a b, decodeCmd_readLane a b⟩,
    fun d s h => exec_decodeCmd_of_reserved h s, fun s => ⟨?_, ?_⟩⟩
  · have hop : decode (.cmd68 0x2_FFFFFF4B_FFFFFF4B#68) = .encode (-181) (-181) := by decide
    have hword : packWord (-181) (-181) = 0xFF4BFF4B#32 := by decide
    rw [hop, exec_encode_of_isS16 (by decide) (by decide), hword]
  · have hop : decode (.cmd68 0x2_0000FF4B_00000000#68) = .encode 65355 0 := by decide
    rw [hop, exec_encode_of_not_isS16_re (by decide)]

/-- Settles O10, by the `we` bit; encoding and canonical form as for every binary form. -/
theorem busRecordsSelectTheAccess : Obligations.BusRecordsSelectTheAccess := by
  refine ⟨fun addr wdata => ⟨decodeBus_mkBus_true addr wdata, decodeBus_mkBus_false addr wdata⟩, fun addr wdata => ?_,
    fun b => encode_decode (.bus65 b), fun b => decode_canonical (.bus65 b)⟩
  simp only [encode, addrField_toNat]
  exact ⟨rfl, rfl⟩

/-- Settles O39: each arm delivers the fault of its own selector. -/
theorem reservedSelectorsTakeIllegalCommand : Obligations.ReservedSelectorsTakeIllegalCommand :=
  fun _ => ⟨rfl, rfl, rfl, rfl, rfl, rfl, rfl, rfl⟩

end Sys2Proof
end

section
/-! Proofs for the register access chapter (spec/40_register_access.md): `MemWrite` and `MemRead`, as the register operations
and the bus records make them (R110 to R113, R90). -/

namespace Sys2Proof

namespace Machine

/-! ### One access, two forms (R110, R112, R90) -/

theorem exec_eq_deliver_memWrite {i : Instr} {addr : Nat} {w : Word}
    (hi : i = .writeWord addr w ∨ i = .busWriteLane addr w) (s : State) : exec i s = deliver s (memWrite addr w s) := by
  obtain rfl | rfl := hi <;> rfl

theorem exec_eq_deliver_memRead {i : Instr} {addr : Nat} (hi : i = .readWord addr ∨ i = .busReadLane addr) (s : State) :
    exec i s = deliver s (memRead addr s) := by
  obtain rfl | rfl := hi <;> rfl

/-! ### The accesses that complete, field by field (R111, R113) -/

theorem afterWrite_eq (w : Word) (s : State) : afterWrite w s = { s with
    log := s.log ++ [{ seq := s.log.length, kind := .wr, addr := s.cfg.writeLaneAddr, data := w }],
    inseq := if s.inseq.length = s.cfg.n then [w] else s.inseq ++ [w],
    response := some (.ok .unit) } := rfl

theorem afterRead_eq (addr k : Nat) (s : State) : afterRead addr k s = { s with
    log := s.log ++ [readEntry addr k s],
    draws := s.draws + 1,
    response := some (.ok (.word (coreRead s.cfg s.log k s.draws))) } := rfl

theorem deliver_memRead_lane_of_complete {s : State} {i : Nat} (hc : ConfigOK s.cfg) (hi : i < s.cfg.n)
    (hp : s.inseq.length = s.cfg.n) :
    deliver s (memRead (readLaneAddr s.cfg i) s) = .next (afterRead (readLaneAddr s.cfg i) i s) :=
  deliver_memRead_of_rl (decodeLane_readLane (stride_pos hc) hi) hp

theorem deliver_memRead_of_ne_lanes {s : State} {addr : Nat} (hc : ConfigOK s.cfg)
    (h : ∀ i < s.cfg.n, addr ≠ readLaneAddr s.cfg i) :
    deliver s (memRead addr s) = .next (raise (.unmappedAccess .rd addr) s) :=
  deliver_memRead_of_unmapped ((decodeLane_rd_unmapped_iff (stride_pos hc) addr).2 h)

end Machine

/-! ### The obligations -/

open Machine

/-- Settles O33: both forms make the one read; a lane's address decodes to that lane alone, then the phase decides. -/
theorem readAccess : Obligations.ReadAccess := by
  intro a s op hc hop
  rw [exec_eq_deliver_memRead hop]
  refine ⟨fun i hi ha hp => ?_, fun i hi ha hp => ?_, deliver_memRead_of_ne_lanes hc⟩
  · obtain rfl : a = readLaneAddr s.cfg i := ha
    exact (deliver_memRead_lane_of_complete hc hi hp).trans (congrArg _ (afterRead_eq _ i s))
  · obtain rfl : a = readLaneAddr s.cfg i := ha
    exact deliver_memRead_lane_of_incomplete hc hi hp

/-- Settles O31: both forms make the one write, which the test of its address decides. -/
theorem writeAccess : Obligations.WriteAccess := by
  intro a v s i hi
  rw [exec_eq_deliver_memWrite hi]
  refine ⟨fun ha => ?_, fun ha => deliver_memWrite_of_ne ha v⟩
  subst ha
  exact (deliver_memWrite_writeLane v s).trans (congrArg _ (afterWrite_eq v s))

end Sys2Proof
end

section
/-! Proofs for the sample codec chapter (spec/41_sample_codec.md): the round trip (R123), the check on the radix position
(R125), the scale conversion and its exactness (R124, R126, R127, R131), and purity (R128). -/

namespace Sys2Proof

namespace Machine

/-! ### A word and its sample (R120, R122) -/

@[simp] theorem realOf_packWord {re : Int} (h : IsS16 re) (im : Int) : realOf (packWord re im) = re := by
  rw [realOf, reField_packWord, toS16_toU16 h]

@[simp] theorem imagOf_packWord (re : Int) {im : Int} (h : IsS16 im) : imagOf (packWord re im) = im := by
  rw [imagOf, imField_packWord, toS16_toU16 h]

theorem packWord_realOf_imagOf (w : Word) : packWord (realOf w) (imagOf w) = w := by
  rw [packWord, realOf, imagOf, toU16_toS16, toU16_toS16]
  exact fields_append w

theorem isS16_realOf (w : Word) : IsS16 (realOf w) := isS16_toS16 _

theorem isS16_imagOf (w : Word) : IsS16 (imagOf w) := isS16_toS16 _

theorem exec_encode_of_error {re im : Int} {f : Fault} (h : encodeSample re im = .error f) (s : State) :
    exec (.encode re im) s = .next (raise f s) := by
  rw [exec_encode_eq, h]
  rfl

theorem exec_encode_of_ok {re im : Int} {w : Word} (h : encodeSample re im = .ok w) (s : State) :
    exec (.encode re im) s = .next (respond (.word w) s) := by
  rw [exec_encode_eq, h]
  rfl

/-! ### The check on the radix position (R125) -/

theorem radixFault_of_legal {c : Cfg} {bp : Int} (h : 0 ≤ bp ∧ bp ≤ c.w) : radixFault c bp = none :=
  if_neg (by omega)

theorem radixFault_of_illegal {c : Cfg} {bp : Int} (h : bp < 0 ∨ (c.w : Int) < bp) :
    radixFault c bp = some (.invalidConfig bp) := if_pos h

theorem exec_decodeScaled_of_illegal {bp : Int} {s : State} (h : bp < 0 ∨ (s.cfg.w : Int) < bp) (w : Word) :
    exec (.decodeScaled w bp) s = .next (raise (.invalidConfig bp) s) :=
  exec_decodeScaled_of_fault (radixFault_of_illegal h)

theorem exec_decodeScaled_of_legal {bp : Int} {s : State} (h : 0 ≤ bp ∧ bp ≤ s.cfg.w) (w : Word) :
    exec (.decodeScaled w bp) s = .next (respond (.scaled (scaleComponent s.cfg.scaleSign bp (realOf w))
      (scaleComponent s.cfg.scaleSign bp (imagOf w))) s) :=
  exec_decodeScaled_of_none (radixFault_of_legal h)

/-- A pair is answered only for a legal radix position, and is the scaled sample. -/
theorem decodeScaled_answer {w : Word} {bp : Int} {s t : State} {re im : Rat}
    (h : exec (.decodeScaled w bp) s = .next t) (hr : t.response = some (.ok (.scaled re im))) :
    (0 ≤ bp ∧ bp ≤ s.cfg.w) ∧ re = scaleComponent s.cfg.scaleSign bp (realOf w) ∧
      im = scaleComponent s.cfg.scaleSign bp (imagOf w) := by
  by_cases hbp : 0 ≤ bp ∧ bp ≤ s.cfg.w
  · obtain rfl := Host.Outcome.next.inj ((exec_decodeScaled_of_legal hbp w).symm.trans h)
    rw [respond_response] at hr
    cases hr
    exact ⟨hbp, rfl, rfl⟩
  · have hbad : bp < 0 ∨ (s.cfg.w : Int) < bp := by omega
    obtain rfl := Host.Outcome.next.inj ((exec_decodeScaled_of_illegal hbad w).symm.trans h)
    cases hr

/-! ### The scale conversion (R124, R126, R131) -/

theorem scaleComponent_zero (sign c : Int) : scaleComponent sign 0 c = c := by
  rw [scaleComponent, mul_zero, zpow_zero, mul_one]

theorem scaleComponent_one_natCast (k : Nat) (c : Int) : scaleComponent 1 k c = (c * 2 ^ k : Int) := by
  rw [scaleComponent, one_mul, zpow_natCast]
  push_cast
  rfl

/-- Scaling keeps the order of components, whatever the exponent. -/
theorem scaleComponent_mono (sign bp : Int) : Monotone (scaleComponent sign bp) := fun _ _ h =>
  mul_le_mul_of_nonneg_right (Int.cast_le.2 h) (zpow_nonneg (by norm_num) _)

/-- With the sign +1 the scaled value is an integer, at most `2^16` times a component in size. -/
theorem scaleComponent_one_integer {bp c : Int} (h : 0 ≤ bp ∧ bp ≤ 16) (hc : IsS16 c) :
    ∃ r : Int, scaleComponent 1 bp c = r ∧ -2147483648 ≤ r ∧ r ≤ 2147418112 := by
  obtain ⟨k, rfl⟩ := Int.eq_ofNat_of_zero_le h.1
  have hpos : (0 : Int) ≤ 2 ^ k := by positivity
  have hle : (2 : Int) ^ k ≤ 2 ^ 16 := pow_le_pow_right₀ (by decide) (by omega)
  have hlow : -32768 * 2 ^ k ≤ c * 2 ^ k := mul_le_mul_of_nonneg_right hc.1 hpos
  have hhigh : c * 2 ^ k ≤ 32767 * 2 ^ k := mul_le_mul_of_nonneg_right hc.2 hpos
  exact ⟨c * 2 ^ k, scaleComponent_one_natCast k c, by linarith, by linarith⟩

/-- With either sign at most 16 fractional bits are used: `2^16` clears them, as the exponent is at least -16. -/
theorem scaleComponent_mul_two_pow {sign bp : Int} (hsign : sign = 1 ∨ sign = -1) (h : 0 ≤ bp ∧ bp ≤ 16) (c : Int) :
    ∃ r : Int, scaleComponent sign bp c * 2 ^ 16 = r := by
  obtain ⟨k, hk⟩ : ∃ k : Nat, sign * bp + (16 : Nat) = k :=
    Int.eq_ofNat_of_zero_le (by obtain rfl | rfl := hsign <;> omega)
  refine ⟨c * 2 ^ k, ?_⟩
  rw [scaleComponent, mul_assoc, ← zpow_natCast, ← zpow_add₀ (by norm_num), hk, zpow_natCast]
  push_cast
  rfl

end Machine

/-! ### The obligations -/

open Machine

/-- Settles O18: each field gives back the component put there, and a word is the assembly of its fields. -/
theorem encodeAndDecodeRawAreInverse : Obligations.EncodeAndDecodeRawAreInverse := by
  refine ⟨fun re im s t hre him => ?_, fun w s t => ?_⟩
  · refine ⟨packWord re im, exec_encode_of_isS16 hre him s, ?_⟩
    rw [exec_decodeRaw_eq, realOf_packWord hre, imagOf_packWord _ him]
  · refine ⟨realOf w, imagOf w, isS16_realOf w, isS16_imagOf w, exec_decodeRaw_eq w s, ?_⟩
    rw [exec_encode_of_isS16 (isS16_realOf w) (isS16_imagOf w), packWord_realOf_imagOf]

/-- Settles O22: an answered pair is the scaled sample of a legal radix position; R11 fixes `W = 16` and the sign. -/
theorem scaledResultsAreExact : Obligations.ScaledResultsAreExact := by
  intro w bp s t hc h re im hr
  obtain ⟨-, ⟨hw, -⟩, -, hsign, -⟩ := hc
  obtain ⟨hbp, rfl, rfl⟩ := decodeScaled_answer h hr
  rw [hw] at hbp
  refine ⟨fun hone => ?_, ?_, fun hzero => ?_⟩
  · obtain ⟨r, hr, hrlow, hrhigh⟩ := scaleComponent_one_integer hbp (isS16_realOf w)
    obtain ⟨i, hi, hilow, hihigh⟩ := scaleComponent_one_integer hbp (isS16_imagOf w)
    rw [hone]
    exact ⟨r, i, hr, hi, hrlow, hrhigh, hilow, hihigh⟩
  · obtain ⟨r, hr⟩ := scaleComponent_mul_two_pow hsign hbp (realOf w)
    obtain ⟨i, hi⟩ := scaleComponent_mul_two_pow hsign hbp (imagOf w)
    exact ⟨r, i, hr, hi⟩
  · rw [hzero, scaleComponent_zero, scaleComponent_zero]
    exact ⟨rfl, rfl⟩

/-- Settles O23: the bounds by the order that scaling keeps, the table's rows by their powers of two. -/
theorem scaledValueBounds : Obligations.ScaledValueBounds := by
  refine ⟨fun c bp hc _ _ => ⟨scaleComponent_mono 1 bp hc.1, scaleComponent_mono 1 bp hc.2⟩, ?_, ?_, ?_,
    fun c hc => ⟨scaleComponent_mono (-1) 8 hc.1, scaleComponent_mono (-1) 8 hc.2⟩, ?_⟩
  all_goals norm_num [scaleComponent]

/-- Settles O24: the check on the operands, which may read the configuration alone, decides the outcome. -/
theorem codecIsPure : Obligations.CodecIsPure := by
  rintro i (⟨re, im, rfl⟩ | ⟨w, rfl⟩ | ⟨w, bp, rfl⟩) s s' hc
  · cases h : encodeSample re im with
    | error f => exact ⟨.fault f, exec_encode_of_error h s, exec_encode_of_error h s'⟩
    | ok w => exact ⟨.ok (.word w), exec_encode_of_ok h s, exec_encode_of_ok h s'⟩
  · exact ⟨.ok _, exec_decodeRaw_eq w s, exec_decodeRaw_eq w s'⟩
  · cases h : radixFault s.cfg bp with
    | some f => exact ⟨.fault f, exec_decodeScaled_of_fault h, exec_decodeScaled_of_fault (hc ▸ h)⟩
    | none =>
      have h' := exec_decodeScaled_of_none (w := w) (s := s') (hc ▸ h)
      rw [hc] at h'
      exact ⟨.ok _, exec_decodeScaled_of_none h, h'⟩

/-- Settles O19: a legal radix position passes the check. -/
theorem decodeScaledMultipliesByPowerOfTwo : Obligations.DecodeScaledMultipliesByPowerOfTwo :=
  fun w _ _ h0 hw => exec_decodeScaled_of_legal ⟨h0, hw⟩ w

/-- Settles O20: the check reads the component width alone, not the configured radix position. -/
theorem decodeScaledRejectsRadixOutOfRange : Obligations.DecodeScaledRejectsRadixOutOfRange := by
  intro w bp s hw
  refine ⟨fun h => exec_decodeScaled_of_illegal ?_ w, fun h => ⟨_, _, exec_decodeScaled_of_legal ?_ w⟩⟩ <;>
    rwa [hw]

/-- Settles O21: the imaginary fields are the integers 1 and 256, each times `2^8`. -/
theorem scalingExampleCorrected : Obligations.ScalingExampleCorrected := by
  intro s hw hsign
  have hlegal : (0 : Int) ≤ 8 ∧ (8 : Int) ≤ s.cfg.w := by omega
  obtain ⟨hre, him⟩ : realOf 0x00000001#32 = 0 ∧ imagOf 0x00000001#32 = 1 := by decide
  obtain ⟨hre', him'⟩ : realOf 0x00000100#32 = 0 ∧ imagOf 0x00000100#32 = 256 := by decide
  obtain ⟨hscale0, hscale1, hscale256⟩ :
      scaleComponent 1 8 0 = 0 ∧ scaleComponent 1 8 1 = 256 ∧ scaleComponent 1 8 256 = 65536 := by
    norm_num [scaleComponent]
  constructor
  · rw [exec_decodeScaled_of_legal hlegal, hsign, hre, him, hscale0, hscale1]
  · rw [exec_decodeScaled_of_legal hlegal, hsign, hre', him', hscale0, hscale256]

end Sys2Proof
end

section
/-! Proofs for the lane sequencer chapter (spec/42_lane_sequencer.md): lane addresses and their index check (R140, R141),
lane accesses (R142, R144), the pseudo-operations (R146, R147), runs (R148) and the sequencer's positions (R150). -/

namespace Sys2Proof

namespace Machine

open Safety

/-! ### Lane addresses (R140, R141) -/

/-- The whole word of a lane lies inside the address space (R11). -/
theorem readLaneAddr_add_four_le_space {c : Cfg} (hc : ConfigOK c) {i : Nat} (hi : i < c.n) :
    readLaneAddr c i + 4 ≤ 2 ^ c.addrW := by
  obtain ⟨-, -, -, -, -, ⟨hread, -⟩, -⟩ := hc
  have hlast : i * c.stride ≤ (c.n - 1) * c.stride := Nat.mul_le_mul_right _ (by omega)
  unfold readLaneAddr
  omega

theorem readLaneAddr_injective {c : Cfg} (hc : ConfigOK c) : Function.Injective (readLaneAddr c) :=
  fun _ _ h => Nat.eq_of_mul_eq_mul_right (stride_pos hc) (Nat.add_left_cancel h)

theorem exec_laneAddr_of_out_of_range {s : State} {i : Int} (h : i < 0 ∨ (s.cfg.n : Int) ≤ i) :
    exec (.laneAddr i) s = .next (raise (.invalidIndex i) s) := by
  rw [exec_laneAddr_eq, laneAddress_error h]
  rfl

theorem exec_readLane_of_out_of_range {s : State} {i : Int} (h : i < 0 ∨ (s.cfg.n : Int) ≤ i) :
    exec (.readLane i) s = .next (raise (.invalidIndex i) s) := exec_readLane_of_error (laneAddress_error h)

/-! ### Lane accesses (R142, R144) -/

theorem exec_writeSample_eq (w : Word) (s : State) : exec (.writeSample w) s = .next (afterWrite w s) :=
  deliver_memWrite_writeLane w s

theorem exec_readLane_of_lt {s : State} {i : Nat} (hi : i < s.cfg.n) :
    exec (.readLane i) s = deliver s (memRead (readLaneAddr s.cfg i) s) := exec_readLane_of_ok (laneAddress_ok hi)

theorem exec_readLane_of_incomplete {s : State} {i : Nat} (hc : ConfigOK s.cfg) (hi : i < s.cfg.n)
    (hp : s.inseq.length ≠ s.cfg.n) :
    exec (.readLane i) s = .next (raise (.protocolViolation s.inseq.length) s) :=
  (exec_readLane_of_lt hi).trans (deliver_memRead_lane_of_incomplete hc hi hp)

/-! ### Pseudo-operations (R95, R146) -/

theorem thenWord_of_word {t : State} {w : Word} (h : t.response = some (.ok (.word w)))
    (k : Word → State → StepOutcome) : thenWord (.next t) k = k w t := by
  simp only [thenWord, h]

/-- A fault ends the pseudo-operation. -/
theorem thenWord_of_fault {t : State} {f : Fault} (h : t.response = some (.fault f))
    (k : Word → State → StepOutcome) : thenWord (.next t) k = .next t := by
  simp only [thenWord, h]

theorem pseudoWriteComplex_eq (re im : Int) (s : State) :
    pseudoWriteComplex re im s = thenWord (exec (.encode re im) s) execWriteSample := rfl

theorem pseudoReadRaw_eq (i : Int) (s : State) :
    pseudoReadRaw i s = thenWord (exec (.readLane i) s) execDecodeRaw := rfl

/-- The configured radix position passes the check (R11), so the read comes first. -/
theorem pseudoReadScaled_eq {s : State} (hc : ConfigOK s.cfg) (i : Int) :
    pseudoReadScaled i s = thenWord (exec (.readLane i) s) fun w t => execDecodeScaled w t.cfg.bp t := by
  obtain ⟨-, -, hbp, -⟩ := hc
  rw [pseudoReadScaled, radixFault_of_legal hbp]
  rfl

theorem pseudoReadRaw_of_fault {i : Int} {s t : State} {f : Fault} (h : exec (.readLane i) s = .next t)
    (hr : t.response = some (.fault f)) : pseudoReadRaw i s = .next t := by
  rw [pseudoReadRaw_eq, h, thenWord_of_fault hr]

theorem pseudoReadScaled_of_fault {i : Int} {s t : State} {f : Fault} (hc : ConfigOK s.cfg)
    (h : exec (.readLane i) s = .next t) (hr : t.response = some (.fault f)) : pseudoReadScaled i s = .next t := by
  rw [pseudoReadScaled_eq hc, h, thenWord_of_fault hr]

theorem pseudoReadRaw_of_word {i : Int} {s t : State} {w : Word} (h : exec (.readLane i) s = .next t)
    (hr : t.response = some (.ok (.word w))) : pseudoReadRaw i s = exec (.decodeRaw w) t := by
  rw [pseudoReadRaw_eq, h, thenWord_of_word hr]
  rfl

theorem pseudoReadScaled_of_word {i : Int} {s t : State} {w : Word} (hc : ConfigOK s.cfg)
    (h : exec (.readLane i) s = .next t) (hr : t.response = some (.ok (.word w))) :
    pseudoReadScaled i s = exec (.decodeScaled w s.cfg.bp) t := by
  obtain ⟨hcfg, -, -⟩ := exec_cfg_inbox_log h
  rw [pseudoReadScaled_eq hc, h, thenWord_of_word hr, hcfg]
  rfl

/-- The response of `encode` in between is overwritten by that of the write. -/
theorem pseudoWriteComplex_of_isS16 {re im : Int} (hre : IsS16 re) (him : IsS16 im) (s : State) :
    pseudoWriteComplex re im s = .next (afterWrite (packWord re im) s) := by
  rw [pseudoWriteComplex_eq, exec_encode_of_isS16 hre him, thenWord_of_word rfl]
  exact exec_writeSample_eq _ _

/-- A pair that is no Complex Sample has a component that does not fit (R121, R166). -/
theorem encodeSample_of_not_isS16 {re im : Int} (h : ¬ (IsS16 re ∧ IsS16 im)) :
    ∃ which value, encodeSample re im = .error (.valueOutOfRange which value) := by
  by_cases hre : IsS16 re
  · have him : ¬ IsS16 im := fun him => h ⟨hre, him⟩
    exact ⟨1, im, (if_neg (not_not_intro hre)).trans (if_pos him)⟩
  · exact ⟨0, re, if_pos hre⟩

theorem pseudoWriteComplex_of_error {re im : Int} {f : Fault} (h : encodeSample re im = .error f) (s : State) :
    pseudoWriteComplex re im s = .next (raise f s) := by
  rw [pseudoWriteComplex_eq, exec_encode_of_error h, thenWord_of_fault rfl]

/-! ### Positions (R25, R27, R150) -/

theorem pos_afterWrite_of_incomplete {s : State} (h : pos s < s.cfg.n) (w : Word) :
    pos (afterWrite w s) = pos s + 1 := by
  rw [pos, afterWrite_inseq, nextSequence_of_incomplete h.ne, List.length_append, List.length_singleton]

theorem pos_afterWrite_of_complete {s : State} (h : pos s = s.cfg.n) (w : Word) : pos (afterWrite w s) = 1 := by
  rw [pos, afterWrite_inseq, nextSequence_of_complete h, List.length_singleton]

/-- A faulting operation leaves the input sequence: no write was made (R173). -/
theorem exec_inseq_of_response_fault {i : Instr} {s t : State} {f : Fault} (h : exec i s = .next t)
    (hr : t.response = some (.fault f)) : t.inseq = s.inseq := by
  obtain ⟨g, rfl⟩ | ⟨v, rfl⟩ | ⟨-, w, rfl⟩ | ⟨-, addr, k, -, -, rfl⟩ := exec_cases_by_lane h
  · rfl
  · rfl
  · simp at hr
  · rfl

/-! ### Runs (R148) -/

theorem runOps_answers (is : List Instr) (s : State) : ∃ t, runOps is s = .next t := by
  induction is generalizing s with
  | nil => exact ⟨s, rfl⟩
  | cons i is ih =>
    obtain ⟨u, hu⟩ := exec_answers i s
    rw [runOps_cons hu]
    exact ih u

theorem runOps_keeps_recorded_fault {is : List Instr} {s t : State} {g : Fault} (h : runOps is s = .next t)
    (hs : s.fault = some g) : t.fault = some g := by
  induction is generalizing s with
  | nil =>
    cases h
    exact hs
  | cons i is ih =>
    obtain ⟨u, hu⟩ := exec_answers i s
    rw [runOps_cons hu] at h
    exact ih h (exec_keeps_recorded_fault hu hs)

theorem allOk_nil (s : State) : AllOk [] s := nofun

theorem allOk_cons_iff {i : Instr} {s t : State} (h : exec i s = .next t) (is : List Instr) :
    AllOk (i :: is) s ↔ (∃ v, t.response = some (.ok v)) ∧ AllOk is t := by
  rw [AllOk, outcomes_cons h, List.forall_mem_cons, AllOk]

/-- A first operation that completes passes the empty record on to the rest; one that faults fills it for good. -/
theorem runOps_fault_none_iff {is : List Instr} {s t : State} (hs : s.fault = none) (h : runOps is s = .next t) :
    t.fault = none ↔ AllOk is s := by
  induction is generalizing s with
  | nil =>
    cases h
    exact iff_of_true hs (allOk_nil _)
  | cons i is ih =>
    obtain ⟨u, hu⟩ := exec_answers i s
    rw [runOps_cons hu] at h
    rw [allOk_cons_iff hu]
    obtain ⟨f, hr, hf⟩ | ⟨v, hr, hf⟩ := exec_response_record hu
    · rw [hs, stick_none] at hf
      have ht := runOps_keeps_recorded_fault h hf
      simp [ht, hr]
    · rw [ih (hf.trans hs) h]
      exact (and_iff_right ⟨v, hr⟩).symm

/-! ### A transaction off a boundary (R147) -/

/-- From a complete sequence at most `n` words, and at least one, are the next sequence (R25). -/
theorem foldl_nextSequence_of_complete {n : Nat} {seq ws : List Word} (hseq : seq.length = n) (h0 : ws ≠ [])
    (hws : ws.length ≤ n) : ws.foldl (nextSequence n) seq = ws := by
  obtain ⟨w, ws, rfl⟩ := List.exists_cons_of_ne_nil h0
  rw [List.length_cons] at hws
  rw [List.foldl_cons, nextSequence_of_complete hseq, foldl_nextSequence_of_fits (by simp; omega)]
  rfl

/-- Off a boundary `n` words first complete the old sequence; the rest, as many as it had, begin the next. -/
theorem foldl_nextSequence_off_boundary {n : Nat} {seq ws : List Word} (h0 : 0 < seq.length) (hn : seq.length < n)
    (hws : ws.length = n) : ws.foldl (nextSequence n) seq = lastWords seq.length ws := by
  have hfirst : (ws.take (n - seq.length)).length = n - seq.length := List.length_take_of_le (by omega)
  have hrest : (ws.drop (n - seq.length)).length = seq.length := by rw [List.length_drop]; omega
  have hfill : (ws.take (n - seq.length)).foldl (nextSequence n) seq = seq ++ ws.take (n - seq.length) :=
    foldl_nextSequence_of_fits (by omega)
  calc ws.foldl (nextSequence n) seq
      = (ws.drop (n - seq.length)).foldl (nextSequence n) ((ws.take (n - seq.length)).foldl (nextSequence n) seq) := by
        rw [← List.foldl_append, List.take_append_drop]
    _ = (ws.drop (n - seq.length)).foldl (nextSequence n) (seq ++ ws.take (n - seq.length)) := by
        rw [hfill]
    _ = ws.drop (n - seq.length) :=
        foldl_nextSequence_of_complete (by rw [List.length_append]; omega) (List.ne_nil_of_length_pos (by omega))
          (by omega)
    _ = lastWords seq.length ws := by rw [lastWords, hws]

theorem length_lastWords {k : Nat} {ws : List Word} (h : k ≤ ws.length) : (lastWords k ws).length = k := by
  rw [lastWords, List.length_drop]
  omega

@[simp] theorem writtenWords_writeEntries (c : Cfg) (start : Nat) (ws : List Word) :
    writtenWords (writeEntries c start ws) = ws := by
  have hall : (writeEntries c start ws).filter (fun a => a.kind = .wr) = writeEntries c start ws :=
    List.filter_eq_self.2 fun a ha => decide_eq_true (writeEntries_are_writes ha).1
  rw [writtenWords, hall]
  refine List.ext_getElem? fun k => ?_
  rw [List.getElem?_map, getElem?_writeEntries, Option.map_map]
  exact Option.map_id'

/-- Before the sequence is complete the read loop faults at lane 0 (R147, R164). -/
theorem readAll_range_of_incomplete {s : State} (hc : ConfigOK s.cfg) (hp : s.inseq.length ≠ s.cfg.n) :
    readAll (List.range s.cfg.n) [] s = .next (raise (.protocolViolation s.inseq.length) s) := by
  have hread : execReadLane (0 : Nat) s = .next (raise (.protocolViolation s.inseq.length) s) :=
    exec_readLane_of_incomplete hc (one_le_n hc) hp
  obtain ⟨m, hm⟩ := Nat.exists_eq_add_of_le' (one_le_n hc)
  rw [hm, List.range_succ_eq_map, readAll, hread, thenWord_of_fault rfl]

theorem pseudoTransact_eq {ws : List Word} {s : State} (hws : ws.length = s.cfg.n) :
    pseudoTransact ws s = readAll (List.range s.cfg.n) [] (afterWrites ws s) := by
  rw [pseudoTransact, if_pos hws, writeAll_eq]

theorem pseudoTransact_of_length_ne {ws : List Word} {s : State} (hws : ws.length ≠ s.cfg.n) :
    pseudoTransact ws s = .refused (.transactOperandCount ws.length) := if_neg hws

end Machine

/-! ### The obligations -/

open Machine Safety

/-- Settles O29: the address is the lane's, which R11 keeps inside the space, and a positive stride tells lanes apart. -/
theorem laneAddrFormsTheAddress : Obligations.LaneAddrFormsTheAddress := by
  intro s hc
  refine ⟨fun i h0 hi => ?_, fun i j hi hj h => ?_⟩
  · obtain ⟨k, rfl⟩ := Int.eq_ofNat_of_zero_le h0
    have hk : k < s.cfg.n := by omega
    exact ⟨exec_laneAddr_of_lt hk, readLaneAddr_add_four_le_space hc hk⟩
  · rw [exec_laneAddr_of_lt hi, exec_laneAddr_of_lt hj] at h
    have haddr : readLaneAddr s.cfg i = readLaneAddr s.cfg j := by
      simpa using congrArg State.response (Host.Outcome.next.inj h)
    exact readLaneAddr_injective hc haddr

/-- Settles O30: the index check comes before the address and the phase, and its fault ends a pseudo-operation. -/
theorem indexOutOfRangeRejected : Obligations.IndexOutOfRangeRejected := by
  intro s i h
  have hread := exec_readLane_of_out_of_range h
  exact ⟨exec_laneAddr_of_out_of_range h, hread, pseudoReadRaw_of_fault hread rfl,
    fun hc => pseudoReadScaled_of_fault hc hread rfl, rfl⟩

/-- Settles O34: a valid index is the read of its lane's address, which the phase decides. -/
theorem readLaneReadsTheLane : Obligations.ReadLaneReadsTheLane := fun i s hc hi =>
  ⟨exec_readLane_of_lt hi,
    fun hp => (exec_readLane_of_complete hc hi hp).trans (congrArg _ (afterRead_eq _ i s)),
    exec_readLane_of_incomplete hc hi⟩

/-- Settles O45: the three writes are one access and the three reads another; the rest leaves the input sequence. -/
theorem sequencerStateMachine : Obligations.SequencerStateMachine := by
  intro s hc
  refine ⟨fun i hi => ?_, fun i hi => ?_, fun i t h ⟨f, hr⟩ => ?_, fun i t hi h => ?_⟩
  · obtain ⟨w, hi⟩ := hi
    have hwrite : exec i s = .next (afterWrite w s) := by
      obtain rfl | rfl | rfl := hi <;> exact deliver_memWrite_writeLane w s
    exact ⟨_, hwrite, rfl, fun hp => pos_afterWrite_of_incomplete hp w, fun hp => pos_afterWrite_of_complete hp w⟩
  · obtain ⟨k, hk, hi⟩ := hi
    have hread : exec i s = deliver s (memRead (readLaneAddr s.cfg k) s) := by
      obtain rfl | rfl | rfl := hi
      · exact exec_readLane_of_lt hk
      · rfl
      · rfl
    by_cases hp : pos s = s.cfg.n
    · exact ⟨_, hread.trans (deliver_memRead_lane_of_complete hc hk hp), rfl, fun hlt => absurd hp hlt.ne,
        fun _ => ⟨_, rfl⟩⟩
    · exact ⟨_, hread.trans (deliver_memRead_lane_of_incomplete hc hk hp), rfl, fun _ => rfl, fun heq => absurd heq hp⟩
  · exact congrArg List.length (exec_inseq_of_response_fault h hr)
  · obtain ⟨-, -, -, hinseq, -⟩ := operationFrame i s t h
    have hw : writesLane i = false := by
      obtain ⟨re, im, rfl⟩ | ⟨w, rfl⟩ | ⟨w, bp, rfl⟩ | ⟨k, rfl⟩ := hi <;> rfl
    exact congrArg List.length (hinseq hw)

/-- Settles O52, by induction over the run. -/
theorem noFaultRecordedIffEveryOperationOk : Obligations.NoFaultRecordedIffEveryOperationOk :=
  ⟨runOps_answers, fun _ _ _ => runOps_fault_none_iff⟩

/-- Settles O54: the words written leave the sequence as long as it was, so the read of lane 0 faults. -/
theorem transactOffBoundaryFaults : Obligations.TransactOffBoundaryFaults := by
  intro s ws hc h0 hn hws
  have hseq : (afterWrites ws s).inseq = lastWords s.inseq.length ws :=
    (afterWrites_inseq ws s).trans (foldl_nextSequence_off_boundary h0 hn hws)
  have hlen : (afterWrites ws s).inseq.length = s.inseq.length := by
    rw [hseq, length_lastWords (by omega)]
  have hreads := readAll_range_of_incomplete (s := afterWrites ws s) (by simpa using hc)
    (by rw [hlen, afterWrites_cfg]; exact hn.ne)
  rw [afterWrites_cfg, hlen] at hreads
  refine ⟨_, (pseudoTransact_eq hws).trans hreads, rfl, hseq, ?_, ?_⟩
  · rw [raise_log, afterWrites_log, List.length_append, length_writeEntries, hws]
  · rw [raise_log, afterWrites_log, writtenWords_append, writtenWords_writeEntries]

/-- Settles O56: each goes on with the word of its first operation, or ends with that operation's fault. -/
theorem pseudoOperationsExpand : Obligations.PseudoOperationsExpand := by
  intro s hc
  refine ⟨fun re im hre him => ?_, fun re im h => ?_, fun i t w h hr => ?_, fun i t f h hr => ?_⟩
  · exact ⟨packWord re im, _, exec_encode_of_isS16 hre him s, exec_writeSample_eq _ s,
      pseudoWriteComplex_of_isS16 hre him s⟩
  · obtain ⟨which, value, hf⟩ := encodeSample_of_not_isS16 h
    exact ⟨_, which, value, pseudoWriteComplex_of_error hf s, rfl, rfl⟩
  · exact ⟨pseudoReadRaw_of_word h hr, pseudoReadScaled_of_word hc h hr⟩
  · exact ⟨pseudoReadRaw_of_fault h hr, pseudoReadScaled_of_fault hc h hr⟩

/-- Settles O32: both are the access to the write lane, which takes a word at every position. -/
theorem writeSampleWritesTheLane : Obligations.WriteSampleWritesTheLane := fun w s =>
  ⟨rfl, (exec_writeSample_eq w s).trans (congrArg _ (afterWrite_eq w s))⟩

/-- Settles O55, by the count before the loops. -/
theorem transactNeedsExactlyNWords : Obligations.TransactNeedsExactlyNWords := fun _ _ => pseudoTransact_of_length_ne

end Sys2Proof
end

section
/-! Proofs for the exceptions chapter (spec/60_exceptions.md): the component check of `encode` (R166), which operation can
raise which fault (R168), priority (R172), delivery (R173) and what follows a fault (R175). -/

namespace Sys2Proof

namespace Machine

open Safety

/-! ### The component check (R121, R166) -/

theorem exec_encode_of_not_isS16_im {re im : Int} (hre : IsS16 re) (him : ¬ IsS16 im) (s : State) :
    exec (.encode re im) s = .next (raise (.valueOutOfRange 1 im) s) :=
  exec_encode_of_error ((if_neg (not_not_intro hre)).trans (if_pos him)) s

/-! ### Delivery (R173) and the operations after a fault (R175) -/

/-- A delivered fault was raised: no other next state of an operation carries one. -/
theorem eq_raise_of_response_fault {i : Instr} {s t : State} {f : Fault} (h : exec i s = .next t)
    (hr : t.response = some (.fault f)) : t = raise f s := by
  obtain ⟨g, rfl⟩ | ⟨v, rfl⟩ | ⟨-, w, rfl⟩ | ⟨-, addr, k, -, -, rfl⟩ := exec_cases_by_lane h
  · obtain rfl : g = f := by simpa using hr
    rfl
  · simp at hr
  · simp at hr
  · simp at hr

/-- No operation reads the sticky record or the last response. -/
theorem exec_with_fault_response (j : Instr) (s : State) (g : Option Fault) (r : Option Response) :
    ∃ u v, exec j s = .next u ∧ exec j { s with fault := g, response := r } = .next v ∧
      withoutRecord v = withoutRecord u := by
  cases execForm j s.cfg s.inseq.length with
  | fault f h => exact ⟨_, _, h _ rfl rfl, h _ rfl rfl, rfl⟩
  | answer v h => exact ⟨_, _, h _ rfl rfl, h _ rfl rfl, rfl⟩
  | write w _ h => exact ⟨_, _, h _ rfl rfl, h _ rfl rfl, rfl⟩
  | read addr k _ _ _ h => exact ⟨_, _, h _ rfl rfl, h _ rfl rfl, rfl⟩

theorem exec_completes (i : Instr) (s : State) : ∃ t r, exec i s = .next t ∧ t.response = some r := by
  obtain ⟨t, ht⟩ := exec_answers i s
  obtain ⟨f, hr, -⟩ | ⟨v, hr, -⟩ := exec_response_record ht
  · exact ⟨t, _, ht, hr⟩
  · exact ⟨t, _, ht, hr⟩

/-- The scaling of `read_scaled` cannot fault: the configured radix position is legal (R11). -/
theorem exec_decodeScaled_configured {s : State} (hc : ConfigOK s.cfg) (w : Word) :
    ∃ v, exec (.decodeScaled w s.cfg.bp) s = .next (respond v s) := by
  obtain ⟨-, -, hbp, -⟩ := hc
  exact ⟨_, exec_decodeScaled_of_legal hbp w⟩

/-! ### The index check (R140, R141) -/

/-- An index out of range, or a lane's number. -/
theorem index_cases (n : Nat) (i : Int) : (i < 0 ∨ (n : Int) ≤ i) ∨ ∃ k < n, i = (k : Int) := by
  by_cases h : i < 0 ∨ (n : Int) ≤ i
  · exact .inl h
  · exact .inr ⟨i.toNat, by omega, by omega⟩

end Machine

namespace Safety

open Machine

/-! ### Which faults an outcome delivers (R168) -/

theorem faultsOnly_raise {f : Fault} {codes : List Nat} (h : faultCode f ∈ codes) (s : State) :
    FaultsOnly (.next (raise f s)) codes := by
  rintro t g ht hr
  obtain rfl := Host.Outcome.next.inj ht
  obtain rfl : f = g := by simpa using hr
  exact h

theorem faultsOnly_of_ok {t : State} {v : Value} (h : t.response = some (.ok v)) (codes : List Nat) :
    FaultsOnly (.next t) codes := by
  rintro u g hu hr
  obtain rfl := Host.Outcome.next.inj hu
  simp [h] at hr

theorem faultsOnly_refused (r : Refusal) (codes : List Nat) : FaultsOnly (.refused r) codes := by
  rintro t f ⟨⟩

theorem FaultsOnly.mono {o : StepOutcome} {codes codes' : List Nat} (h : FaultsOnly o codes) (hsub : codes ⊆ codes') :
    FaultsOnly o codes' := fun t f ht hr => hsub (h t f ht hr)

/-- A pseudo-operation delivers a fault of its first operation, or one of what it goes on with (R95). -/
theorem FaultsOnly.thenWord {o : StepOutcome} {k : Word → State → StepOutcome} {codes : List Nat}
    (ho : FaultsOnly o codes) (hk : ∀ t w, o = .next t → FaultsOnly (k w t) codes) :
    FaultsOnly (thenWord o k) codes := by
  cases o with
  | next t =>
    simp only [Machine.thenWord]
    split
    · exact hk t _ rfl
    · exact ho
  | fault f => exact ho
  | refused r => exact ho

/-! ### The rows of the table -/

theorem faultsOnly_memWrite (addr : Nat) (w : Word) (s : State) : FaultsOnly (deliver s (memWrite addr w s)) [3] := by
  by_cases h : addr = s.cfg.writeLaneAddr
  · subst h
    rw [deliver_memWrite_writeLane]
    exact faultsOnly_of_ok rfl _
  · rw [deliver_memWrite_of_ne h]
    exact faultsOnly_raise List.mem_cons_self s

/-- A read of an address that decodes to a lane can only come too early (R164). -/
theorem faultsOnly_memRead_of_rl {addr k : Nat} {s : State} (h : decodeLane s.cfg .rd addr = .rl k) :
    FaultsOnly (deliver s (memRead addr s)) [4] := by
  by_cases hp : s.inseq.length = s.cfg.n
  · rw [deliver_memRead_of_rl h hp]
    exact faultsOnly_of_ok rfl _
  · rw [deliver_memRead_of_incomplete h hp]
    exact faultsOnly_raise List.mem_cons_self s

theorem faultsOnly_memRead (addr : Nat) (s : State) : FaultsOnly (deliver s (memRead addr s)) [3, 4] := by
  cases hd : decodeLane s.cfg .rd addr with
  | wl => exact absurd hd (decodeLane_rd_ne_wl _ _)
  | rl k => exact (faultsOnly_memRead_of_rl hd).mono (by decide)
  | unmapped =>
    rw [deliver_memRead_of_unmapped hd]
    exact faultsOnly_raise List.mem_cons_self s

theorem faultsOnly_encode (re im : Int) (s : State) : FaultsOnly (exec (.encode re im) s) [6] := by
  by_cases h : IsS16 re ∧ IsS16 im
  · obtain ⟨hre, him⟩ := h
    rw [exec_encode_of_isS16 hre him]
    exact faultsOnly_of_ok rfl _
  · obtain ⟨which, value, hf⟩ := encodeSample_of_not_isS16 h
    rw [exec_encode_of_error hf]
    exact faultsOnly_raise List.mem_cons_self s

theorem faultsOnly_decodeRaw (w : Word) (s : State) : FaultsOnly (exec (.decodeRaw w) s) [] :=
  faultsOnly_of_ok (respond_response _ s) _

theorem faultsOnly_decodeScaled (w : Word) (bp : Int) (s : State) :
    FaultsOnly (exec (.decodeScaled w bp) s) [2] := by
  by_cases h : bp < 0 ∨ (s.cfg.w : Int) < bp
  · rw [exec_decodeScaled_of_illegal h]
    exact faultsOnly_raise List.mem_cons_self s
  · rw [exec_decodeScaled_of_legal (by omega)]
    exact faultsOnly_of_ok rfl _

theorem faultsOnly_laneAddr (i : Int) (s : State) : FaultsOnly (exec (.laneAddr i) s) [1] := by
  obtain h | ⟨k, hk, rfl⟩ := index_cases s.cfg.n i
  · rw [exec_laneAddr_of_out_of_range h]
    exact faultsOnly_raise List.mem_cons_self s
  · rw [exec_laneAddr_of_lt hk]
    exact faultsOnly_of_ok rfl _

theorem faultsOnly_writeSample (w : Word) (s : State) : FaultsOnly (exec (.writeSample w) s) [] := by
  rw [exec_writeSample_eq]
  exact faultsOnly_of_ok rfl _

/-- `read_lane` faults for its index, or as the read of the lane's address does. -/
theorem faultsOnly_readLane_of {i : Int} {s : State} {codes : List Nat} (h1 : 1 ∈ codes)
    (hread : ∀ k < s.cfg.n, FaultsOnly (deliver s (memRead (readLaneAddr s.cfg k) s)) codes) :
    FaultsOnly (exec (.readLane i) s) codes := by
  obtain h | ⟨k, hk, rfl⟩ := index_cases s.cfg.n i
  · rw [exec_readLane_of_out_of_range h]
    exact faultsOnly_raise h1 s
  · rw [exec_readLane_of_lt hk]
    exact hread k hk

theorem faultsOnly_readLane {s : State} (hc : ConfigOK s.cfg) (i : Int) :
    FaultsOnly (exec (.readLane i) s) [1, 4] :=
  faultsOnly_readLane_of (by decide) fun _ hk =>
    (faultsOnly_memRead_of_rl (decodeLane_readLane (stride_pos hc) hk)).mono (by decide)

theorem faultsOnly_pseudoWriteComplex (re im : Int) (s : State) : FaultsOnly (pseudoWriteComplex re im s) [6] := by
  rw [pseudoWriteComplex_eq]
  exact (faultsOnly_encode re im s).thenWord fun t w _ => (faultsOnly_writeSample w t).mono (List.nil_subset _)

theorem faultsOnly_pseudoReadRaw {s : State} (hc : ConfigOK s.cfg) (i : Int) :
    FaultsOnly (pseudoReadRaw i s) [1, 4] := by
  rw [pseudoReadRaw_eq]
  exact (faultsOnly_readLane hc i).thenWord fun t w _ => (faultsOnly_decodeRaw w t).mono (List.nil_subset _)

theorem faultsOnly_pseudoReadScaled {s : State} (hc : ConfigOK s.cfg) (i : Int) :
    FaultsOnly (pseudoReadScaled i s) [1, 4] := by
  rw [pseudoReadScaled_eq hc]
  refine (faultsOnly_readLane hc i).thenWord fun t w ht => ?_
  obtain ⟨hcfg, -, -⟩ := exec_cfg_inbox_log ht
  obtain ⟨v, hv⟩ := exec_decodeScaled_configured (s := t) (hcfg ▸ hc) w
  change FaultsOnly (exec (.decodeScaled w t.cfg.bp) t) _
  rw [hv]
  exact faultsOnly_of_ok rfl _

/-- The writes of `transact` never fault, and its reads only where the sequence is incomplete after them (R147). -/
theorem faultsOnly_pseudoTransact {s : State} (hc : ConfigOK s.cfg) (ws : List Word) :
    FaultsOnly (pseudoTransact ws s) [4] := by
  by_cases hws : ws.length = s.cfg.n
  · have hc' : ConfigOK (afterWrites ws s).cfg := by simpa using hc
    rw [pseudoTransact_eq hws, ← afterWrites_cfg ws s]
    by_cases hp : (afterWrites ws s).inseq.length = (afterWrites ws s).cfg.n
    · rw [readAll_range_eq hc' hp]
      exact faultsOnly_of_ok rfl _
    · rw [readAll_range_of_incomplete hc' hp]
      exact faultsOnly_raise List.mem_cons_self _
  · rw [pseudoTransact_of_length_ne hws]
    exact faultsOnly_refused _ _

/-- A descriptor with a selector below 8 names one of the eight operations, none of which raises `IllegalCommand`. -/
theorem faultsOnly_decodeCmd {d : BitVec 68} (h : (cmdOp d).toNat < 8) (s : State) :
    FaultsOnly (exec (decodeCmd d) s) [1, 2, 3, 4, 6] := by
  cases d using descriptor_cases with
  | writeWord a b => rw [decodeCmd_writeWord]; exact (faultsOnly_memWrite _ b s).mono (by decide)
  | readWord a b => rw [decodeCmd_readWord]; exact (faultsOnly_memRead _ s).mono (by decide)
  | encode a b => rw [decodeCmd_encode]; exact (faultsOnly_encode _ _ s).mono (by decide)
  | decodeRaw a b => rw [decodeCmd_decodeRaw]; exact (faultsOnly_decodeRaw a s).mono (by decide)
  | decodeScaled a b => rw [decodeCmd_decodeScaled]; exact (faultsOnly_decodeScaled a _ s).mono (by decide)
  | laneAddr a b => rw [decodeCmd_laneAddr]; exact (faultsOnly_laneAddr _ s).mono (by decide)
  | writeSample a b => rw [decodeCmd_writeSample]; exact (faultsOnly_writeSample a s).mono (by decide)
  | readLane a b =>
    rw [decodeCmd_readLane]
    exact faultsOnly_readLane_of (by decide) fun _ _ => (faultsOnly_memRead _ s).mono (by decide)
  | reserved op a b hop =>
    rw [cmdOp_mkCmd] at h
    omega

theorem FaultsOnly.ne_illegalCommand {o : StepOutcome} {codes : List Nat} (h : FaultsOnly o codes) (h5 : 5 ∉ codes)
    {t : State} (ht : o = .next t) (op : BitVec 4) : t.response ≠ some (.fault (.illegalCommand op)) :=
  fun hr => h5 (h t _ ht hr)

/-! ### Every marked cell is raised: on `CFG_EX`, all but one right after reset (R168) -/

theorem canFault_of_reset {run : State → StepOutcome} {t : State} {f : Fault} {code : Nat}
    (h : run State.reset = .next t) (hr : t.response = some (.fault f)) (hcode : faultCode f = code) :
    CanFault run code := ⟨State.reset, t, f, configOK_cfgEx, h, hr, hcode⟩

/-- An index no hardware has a lane for. -/
theorem exec_readLane_neg_one (s : State) :
    exec (.readLane (-1)) s = .next (raise (.invalidIndex (-1)) s) :=
  exec_readLane_of_out_of_range (.inl (by decide))

theorem exec_writeWord_zero_reset :
    exec (.writeWord 0 0#32) State.reset = .next (raise (.unmappedAccess .wr 0) State.reset) :=
  deliver_memWrite_of_ne (s := State.reset) (addr := 0) (by decide) 0#32

theorem exec_readWord_zero_reset :
    exec (.readWord 0) State.reset = .next (raise (.unmappedAccess .rd 0) State.reset) :=
  deliver_memRead_of_unmapped (s := State.reset) (addr := 0) (by decide)

/-- Lane 0 read before any write. -/
theorem exec_readLane_zero_reset :
    exec (.readLane (0 : Nat)) State.reset = .next (raise (.protocolViolation 0) State.reset) :=
  exec_readLane_of_incomplete configOK_cfgEx (by decide) (by decide)

theorem exec_readWord_lane_zero_reset :
    exec (.readWord (readLaneAddr cfgEx 0)) State.reset = .next (raise (.protocolViolation 0) State.reset) :=
  deliver_memRead_lane_of_incomplete (s := State.reset) (i := 0) configOK_cfgEx (by decide) (by decide)

theorem exec_encode_wide_re (s : State) :
    exec (.encode 32768 0) s = .next (raise (.valueOutOfRange 0 32768) s) :=
  exec_encode_of_not_isS16_re (by decide) 0 s

/-- One word collected: no transaction boundary of `CFG_EX`. -/
def offBoundary : State := { State.reset with inseq := [0#32] }

theorem canFault_pseudoTransact : CanFault (pseudoTransact (List.replicate 8 0#32)) 4 := by
  obtain ⟨t, ht, hr, -⟩ := transactOffBoundaryFaults offBoundary (List.replicate 8 0#32) configOK_cfgEx
    (by decide) (by decide) (by decide)
  exact ⟨offBoundary, t, _, configOK_cfgEx, ht, hr, rfl⟩

end Safety

/-! ### The obligations -/

open Machine Safety

/-- Settles O40: a fault delivered is a fault raised, and raising sets the record and the response alone. -/
theorem faultDelivery : Obligations.FaultDelivery := by
  intro i s t f h hr
  obtain rfl := eq_raise_of_response_fault h hr
  refine ⟨rfl, rfl, ?_, rfl⟩
  rw [raise_fault]
  cases s.fault <;> rfl

/-- Settles O44: what follows a fault finds the earlier state with another record and response, which no operation reads. -/
theorem faultsDoNotDisturbLaterOperations : Obligations.FaultsDoNotDisturbLaterOperations := by
  refine ⟨fun i j s t f h hr => ?_, fun j s g => exec_with_fault_response j s g s.response,
    fun _ _ _ _ => exec_keeps_recorded_fault⟩
  obtain rfl := eq_raise_of_response_fault h hr
  exact exec_with_fault_response j s _ _

/-- Settles O42, row by row: what the operation delivers, then an operand and a state for each marked cell. -/
theorem faultCausesByOperation : Obligations.FaultCausesByOperation := by
  refine ⟨⟨faultsOnly_memWrite, 0, 0#32, ?_⟩, ⟨faultsOnly_memRead, ⟨0, ?_⟩, readLaneAddr cfgEx 0, ?_⟩,
    ⟨faultsOnly_encode, 32768, 0, ?_⟩, faultsOnly_decodeRaw, ⟨faultsOnly_decodeScaled, 0#32, -1, ?_⟩,
    ⟨faultsOnly_laneAddr, -1, ?_⟩, faultsOnly_writeSample,
    ⟨fun i _ hc => faultsOnly_readLane hc i, ⟨-1, ?_⟩, (0 : Nat), ?_⟩,
    ⟨faultsOnly_pseudoWriteComplex, 32768, 0, ?_⟩,
    ⟨fun i _ hc => faultsOnly_pseudoReadRaw hc i, ⟨-1, ?_⟩, (0 : Nat), ?_⟩,
    ⟨fun i _ hc => faultsOnly_pseudoReadScaled hc i, ⟨-1, ?_⟩, (0 : Nat), ?_⟩,
    ⟨fun ws _ hc => faultsOnly_pseudoTransact hc ws, _, canFault_pseudoTransact⟩, ?_⟩
  · exact canFault_of_reset exec_writeWord_zero_reset rfl rfl
  · exact canFault_of_reset exec_readWord_zero_reset rfl rfl
  · exact canFault_of_reset exec_readWord_lane_zero_reset rfl rfl
  · exact canFault_of_reset (exec_encode_wide_re _) rfl rfl
  · exact canFault_of_reset (exec_decodeScaled_of_illegal (.inl (by decide)) 0#32) rfl rfl
  · exact canFault_of_reset (exec_laneAddr_of_out_of_range (.inl (by decide))) rfl rfl
  · exact canFault_of_reset (exec_readLane_neg_one _) rfl rfl
  · exact canFault_of_reset exec_readLane_zero_reset rfl rfl
  · exact canFault_of_reset (pseudoWriteComplex_of_error (if_pos (by decide)) _) rfl rfl
  · exact canFault_of_reset (pseudoReadRaw_of_fault (exec_readLane_neg_one _) rfl) rfl rfl
  · exact canFault_of_reset (pseudoReadRaw_of_fault exec_readLane_zero_reset rfl) rfl rfl
  · exact canFault_of_reset (pseudoReadScaled_of_fault configOK_cfgEx (exec_readLane_neg_one _) rfl) rfl rfl
  · exact canFault_of_reset (pseudoReadScaled_of_fault configOK_cfgEx exec_readLane_zero_reset rfl) rfl rfl
  · exact fun _ s h _ op ht => (faultsOnly_decodeCmd h s).ne_illegalCommand (by decide) ht op

/-- Settles O16, by the two tests of `encode` in their order. -/
theorem encodeRefusesWideComponents : Obligations.EncodeRefusesWideComponents := fun _ im s =>
  ⟨fun hre => exec_encode_of_not_isS16_re hre im s, fun hre him => exec_encode_of_not_isS16_im hre him s⟩

/-- Settles O43: each test comes before what the other fault needs. -/
theorem faultPriority : Obligations.FaultPriority := by
  refine ⟨fun _ s h => exec_decodeCmd_of_reserved h s, fun i s h _ => ?_, fun _ _ h _ => deliver_memRead_of_unmapped h,
    fun _ im s hre _ => exec_encode_of_not_isS16_re hre im s, fun w _ _ h => exec_decodeScaled_of_illegal h w,
    exec_completes⟩
  have hread := exec_readLane_of_out_of_range h
  exact ⟨hread, pseudoReadRaw_of_fault hread rfl, fun hc => pseudoReadScaled_of_fault hc hread rfl⟩

end Sys2Proof
end

section
/-! Proofs for the reset and hazards chapter (spec/70_reset_and_hazards.md): the reset event (R190, R191), the read enabled
by the last write (R203), and completion (R210). -/

namespace Sys2Proof

namespace Machine

/-! ### The reset event (R191) -/

theorem resetEvent_eq (s : State) :
    resetEvent s = { s with inseq := [], log := [], fault := none, response := none } := rfl

/-! ### The last write of a transaction (R203) -/

/-- The `N`-th write makes the input sequence complete. -/
theorem length_afterWrite_of_last {s : State} (h : s.inseq.length + 1 = s.cfg.n) (w : Word) :
    (afterWrite w s).inseq.length = (afterWrite w s).cfg.n := by
  have hlt : pos s < s.cfg.n := Nat.lt_of_succ_le h.le
  exact (pos_afterWrite_of_incomplete hlt w).trans h

end Machine

/-! ### The obligations -/

open Machine

/-- Settles O38: an operation answers in every state, and its answer holds a result or a fault. -/
theorem everyOperationCompletes : Obligations.EveryOperationCompletes := exec_completes

/-- Settles O50: after the last write the sequence is complete, which is all a read of a valid lane waits for. -/
theorem readsEnabledByTheLastWrite : Obligations.ReadsEnabledByTheLastWrite := by
  intro s w i hc hlast hi
  have hread := exec_readLane_of_complete (s := afterWrite w s) hc hi (length_afterWrite_of_last hlast w)
  exact ⟨_, _, _, exec_writeSample_eq w s, hread, afterRead_response _ i _⟩

/-- Settles O2: a well-formed configuration fetches the reset at the head of the inbox, and its effect is R191's. -/
theorem resetEventClearsTheSpecsState : Obligations.ResetEventClearsTheSpecsState := fun _ _ hc hb =>
  (step_of_reset hc hb).trans (congrArg _ (resetEvent_eq _))

end Sys2Proof
end
